-- ==== Sys2Proof/Word.lean ====
section
/-! DEFINITION. The types of what the block handles: words, bytes, register numbers, text. -/

namespace Sys2Proof

/-- One LC-3 instruction word (00_scope R6, 30_encoding R32): 16 bits, bit 15 the most significant (R7). -/
abbrev Word := BitVec 16

/-- One character position of a text port, holding an ASCII code (00_scope R10, 10_state R17). -/
abbrev Byte := BitVec 8

/-- A register specifier: 3 bits, only a number to this block (10_state R18). -/
abbrev Reg := BitVec 3

/-- A string as 00_scope R10 has it: a finite sequence of characters. -/
abbrev Text := List Char

end Sys2Proof
end

