-- ==== Sys2Proof/Machine/Slicer.lean ====
section
/-! DEFINITION. The operand bit-slicer, the single-bit test and the sign-extender (30_encoding R34 to R36), and the
field catalogue of R37. Their argument ranges are in their types: other arguments are never instantiated
(60_exceptions R81, 92_eei_decisions D21). -/

namespace Sys2Proof.Machine

/-- `word[hi:lo]`, right-justified and zero-extended (00_scope R8, 30_encoding R34). -/
def bits (w : Word) (hi lo : Nat) (_range : lo ≤ hi ∧ hi ≤ 15 := by decide) : BitVec (hi - lo + 1) :=
  w.extractLsb hi lo

/-- Whether bit `n` of the word is set (30_encoding R35). -/
def bit (w : Word) (n : Nat) (_range : n ≤ 15 := by decide) : Bool := w.getLsbD n

/-- The integer a field of `n` bits stands for in two's complement (00_scope R9, 30_encoding R36). -/
def sext {n : Nat} (v : BitVec n) (_range : 1 ≤ n ∧ n ≤ 16 := by decide) : Int :=
  if v.getLsbD (n - 1) then (v.toNat : Int) - 2 ^ n else v.toNat

/-- The same value as a 16-bit pattern: copies of the sign bit above the field (00_scope R9, 30_encoding R36). -/
def sext16 {n : Nat} (v : BitVec n) (_range : 1 ≤ n ∧ n ≤ 16 := by decide) : Word := v.signExtend 16

/-! The fields of 30_encoding R33 and R37, each a slice at fixed positions. -/

/-- The opcode extractor, bits 15:12 (30_encoding R33). -/
def opcodeOf (w : Word) : BitVec 4 := bits w 15 12
/-- R_HI: DR, SR or register operand, bits 11:9. -/
def fieldRHi (w : Word) : Reg := bits w 11 9
/-- R_MID: SR1, SR or BaseR, bits 8:6. -/
def fieldRMid (w : Word) : Reg := bits w 8 6
/-- R_LO: SR2, bits 2:0. -/
def fieldRLo (w : Word) : Reg := bits w 2 0
/-- n, bit 11. -/
def flagN (w : Word) : Bool := bit w 11
/-- z, bit 10. -/
def flagZ (w : Word) : Bool := bit w 10
/-- p, bit 9. -/
def flagP (w : Word) : Bool := bit w 9
/-- IMMSEL, bit 5: 1 selects imm5, 0 selects SR2. -/
def immSel (w : Word) : Bool := bit w 5
/-- JSRSEL, bit 11: 1 selects JSRR, 0 selects JSR (90_conflicts C3). -/
def jsrSel (w : Word) : Bool := bit w 11
/-- imm5, bits 4:0. -/
def fieldImm5 (w : Word) : BitVec 5 := bits w 4 0
/-- offset6, bits 5:0. -/
def fieldOff6 (w : Word) : BitVec 6 := bits w 5 0
/-- PCoffset9, bits 8:0. -/
def fieldOff9 (w : Word) : BitVec 9 := bits w 8 0
/-- PCoffset11, bits 10:0. -/
def fieldOff11 (w : Word) : BitVec 11 := bits w 10 0
/-- trapvect8, bits 7:0. -/
def fieldVect8 (w : Word) : BitVec 8 := bits w 7 0

end Sys2Proof.Machine
end

