-- ==== Sys2Proof/Syntax.lean ====
section
/-! DEFINITION. The decoded instruction: the closed sum type of 30_encoding R46, one constructor per row of
spec/opcode_table.json. A signed offset or immediate is its integer value; its range is checked in WellFormed. -/

namespace Sys2Proof

/-- The decoded term of 30_encoding R46. -/
inductive Instr where
  /-- BR: the three selector bits and PCoffset9 (41 R62). -/
  | br (n z p : Bool) (off : Int)
  /-- ADD, register form (42 R64). -/
  | addR (dr sr1 sr2 : Reg)
  /-- ADD, immediate form (42 R64). -/
  | addI (dr sr1 : Reg) (imm : Int)
  /-- LD (43 R66). -/
  | ld (r : Reg) (off : Int)
  /-- ST (43 R68). -/
  | st (r : Reg) (off : Int)
  /-- JSR: bit 11 is 0 (46 R74; 90 C3). -/
  | jsr (off : Int)
  /-- JSRR: bit 11 is 1 (46 R75; 90 C3). -/
  | jsrr (base : Reg)
  /-- AND, register form (42 R65). -/
  | andR (dr sr1 sr2 : Reg)
  /-- AND, immediate form (42 R65). -/
  | andI (dr sr1 : Reg) (imm : Int)
  /-- LDR (44 R71). -/
  | ldr (r base : Reg) (off : Int)
  /-- STR (44 R72). -/
  | str (r base : Reg) (off : Int)
  /-- RTI (48 R78). -/
  | rti
  /-- NOT (45 R73). -/
  | not (dr sr : Reg)
  /-- LDI (43 R67). -/
  | ldi (r : Reg) (off : Int)
  /-- STI (43 R69). -/
  | sti (r : Reg) (off : Int)
  /-- RET: every word of opcode 12 (48 R77; 90 C5). -/
  | ret
  /-- The reserved opcode 13, a defined output and no error (48 R79). -/
  | reserved
  /-- LEA (43 R70). -/
  | lea (r : Reg) (off : Int)
  /-- TRAP with its unsigned vector (47 R76). -/
  | trap (vect : BitVec 8)
  deriving DecidableEq, Repr

end Sys2Proof
end

