-- ==== Sys2Proof/WellFormed.lean ====
section
/-! DEFINITION. Which decoded terms stand for an instruction: every offset and immediate lies in the range of its
field (30_encoding R38, R46). Register numbers, flags and the trap vector are in range by their type. -/

namespace Sys2Proof

/-- `v` is the value of some two's-complement field of `width` bits (00_scope R9). -/
def fitsSigned (width : Nat) (v : Int) : Bool := decide (-(2 ^ (width - 1) : Int) ≤ v ∧ v < 2 ^ (width - 1))

/-- The ranges of 30_encoding R46, constructor by constructor. -/
def Instr.wellFormed : Instr → Bool
  | .br _ _ _ off => fitsSigned 9 off
  | .addR _ _ _ => true
  | .addI _ _ imm => fitsSigned 5 imm
  | .ld _ off => fitsSigned 9 off
  | .st _ off => fitsSigned 9 off
  | .jsr off => fitsSigned 11 off
  | .jsrr _ => true
  | .andR _ _ _ => true
  | .andI _ _ imm => fitsSigned 5 imm
  | .ldr _ _ off => fitsSigned 6 off
  | .str _ _ off => fitsSigned 6 off
  | .rti => true
  | .not _ _ => true
  | .ldi _ off => fitsSigned 9 off
  | .sti _ off => fitsSigned 9 off
  | .ret => true
  | .reserved => true
  | .lea _ off => fitsSigned 9 off
  | .trap _ => true

end Sys2Proof
end

