-- ==== Sys2Proof/Decode.lean ====
section
/-! DEFINITION. The decoder of 30_encoding R46, total on the 65536 words (00_scope R5: nothing is refused), and the
encoder written from the bit layouts of R39. -/

namespace Sys2Proof

open Machine

/-- `decode` of 30_encoding R46, by bits 15, 14, 13, 12 of the word (R41), and by the one selector bit that
opcodes 1, 4 and 5 have (R45). Bit 11 set is JSRR and opcode 12 is RET (90_conflicts C3, C5): UNVERIFIED against the
original program, unsafe (log 13). -/
def decode (w : Word) : Instr :=
  match bit w 15, bit w 14, bit w 13, bit w 12 with
  | false, false, false, false => .br (flagN w) (flagZ w) (flagP w) (sext (fieldOff9 w))
  | false, false, false, true =>
    if immSel w then .addI (fieldRHi w) (fieldRMid w) (sext (fieldImm5 w))
    else .addR (fieldRHi w) (fieldRMid w) (fieldRLo w)
  | false, false, true, false => .ld (fieldRHi w) (sext (fieldOff9 w))
  | false, false, true, true => .st (fieldRHi w) (sext (fieldOff9 w))
  | false, true, false, false =>
    if jsrSel w then .jsrr (fieldRMid w) else .jsr (sext (fieldOff11 w))
  | false, true, false, true =>
    if immSel w then .andI (fieldRHi w) (fieldRMid w) (sext (fieldImm5 w))
    else .andR (fieldRHi w) (fieldRMid w) (fieldRLo w)
  | false, true, true, false => .ldr (fieldRHi w) (fieldRMid w) (sext (fieldOff6 w))
  | false, true, true, true => .str (fieldRHi w) (fieldRMid w) (sext (fieldOff6 w))
  | true, false, false, false => .rti
  | true, false, false, true => .not (fieldRHi w) (fieldRMid w)
  | true, false, true, false => .ldi (fieldRHi w) (sext (fieldOff9 w))
  | true, false, true, true => .sti (fieldRHi w) (sext (fieldOff9 w))
  | true, true, false, false => .ret
  | true, true, false, true => .reserved
  | true, true, true, false => .lea (fieldRHi w) (sext (fieldOff9 w))
  | true, true, true, true => .trap (fieldVect8 w)

/-- The word of an instruction, by the layouts of 30_encoding R39, its unread bits (R43) taken from `fill`: the spec
gives them no value, so they are an argument and none is chosen. -/
def encodeWith (fill : Word) : Instr → Word
  | .br n z p off => 0b0000#4 ++ (BitVec.ofBool n ++ BitVec.ofBool z ++ BitVec.ofBool p) ++ BitVec.ofInt 9 off
  | .addR dr sr1 sr2 => 0b0001#4 ++ dr ++ sr1 ++ 0#1 ++ (bits fill 4 3 : BitVec 2) ++ sr2
  | .addI dr sr1 imm => 0b0001#4 ++ dr ++ sr1 ++ 1#1 ++ BitVec.ofInt 5 imm
  | .ld r off => 0b0010#4 ++ r ++ BitVec.ofInt 9 off
  | .st r off => 0b0011#4 ++ r ++ BitVec.ofInt 9 off
  | .jsr off => 0b0100#4 ++ 0#1 ++ BitVec.ofInt 11 off
  | .jsrr base => 0b0100#4 ++ 1#1 ++ (bits fill 10 9 : BitVec 2) ++ base ++ (bits fill 5 0 : BitVec 6)
  | .andR dr sr1 sr2 => 0b0101#4 ++ dr ++ sr1 ++ 0#1 ++ (bits fill 4 3 : BitVec 2) ++ sr2
  | .andI dr sr1 imm => 0b0101#4 ++ dr ++ sr1 ++ 1#1 ++ BitVec.ofInt 5 imm
  | .ldr r base off => 0b0110#4 ++ r ++ base ++ BitVec.ofInt 6 off
  | .str r base off => 0b0111#4 ++ r ++ base ++ BitVec.ofInt 6 off
  | .rti => 0b1000#4 ++ (bits fill 11 0 : BitVec 12)
  | .not dr sr => 0b1001#4 ++ dr ++ sr ++ (bits fill 5 0 : BitVec 6)
  | .ldi r off => 0b1010#4 ++ r ++ BitVec.ofInt 9 off
  | .sti r off => 0b1011#4 ++ r ++ BitVec.ofInt 9 off
  | .ret => 0b1100#4 ++ (bits fill 11 0 : BitVec 12)
  | .reserved => 0b1101#4 ++ (bits fill 11 0 : BitVec 12)
  | .lea r off => 0b1110#4 ++ r ++ BitVec.ofInt 9 off
  | .trap vect => 0b1111#4 ++ (bits fill 11 8 : BitVec 4) ++ vect

/-- The word of an instruction with its unread bits 0. DESIGN CHOICE, safe: `decode` does not read them (log 8). -/
def encode (i : Instr) : Word := encodeWith 0#16 i

/-- The `match` and `mask` of the instruction's row in spec/opcode_table.json. -/
def tableRow : Instr → Word × Word
  | .br _ _ _ _ => (0x0000#16, 0xF000#16)
  | .addR _ _ _ => (0x1000#16, 0xF020#16)
  | .addI _ _ _ => (0x1020#16, 0xF020#16)
  | .ld _ _ => (0x2000#16, 0xF000#16)
  | .st _ _ => (0x3000#16, 0xF000#16)
  | .jsr _ => (0x4000#16, 0xF800#16)
  | .jsrr _ => (0x4800#16, 0xF800#16)
  | .andR _ _ _ => (0x5000#16, 0xF020#16)
  | .andI _ _ _ => (0x5020#16, 0xF020#16)
  | .ldr _ _ _ => (0x6000#16, 0xF000#16)
  | .str _ _ _ => (0x7000#16, 0xF000#16)
  | .rti => (0x8000#16, 0xF000#16)
  | .not _ _ => (0x9000#16, 0xF000#16)
  | .ldi _ _ => (0xA000#16, 0xF000#16)
  | .sti _ _ => (0xB000#16, 0xF000#16)
  | .ret => (0xC000#16, 0xF000#16)
  | .reserved => (0xD000#16, 0xF000#16)
  | .lea _ _ => (0xE000#16, 0xF000#16)
  | .trap _ => (0xF000#16, 0xF000#16)

/-- The one word an instruction of `nbits` bits numbered as the opcode table numbers them is: every instruction is
exactly one word (30_encoding R32), and bits above `nbits` are 0. -/
def tableWord (nbits w : Nat) : Word := BitVec.ofNat 16 (w % 2 ^ min nbits 16)

/-- The instruction the decoder reads from that word. The word reaches the block as 16 parallel bits
(20_memory R25), so no byte order enters; the decoder refuses nothing (00_scope R5). -/
def decodeTableWord (nbits w : Nat) : Option Instr := some (decode (tableWord nbits w))

end Sys2Proof
end

