-- ==== Sys2Proof/Config.lean ====
section
/-! DEFINITION. What 00_scope R6 lets an implementation or a model choose: the two rendering layouts, at the values
the spec decides, and the open propagation delay. -/

namespace Sys2Proof

/-- How wide the head of LD, LDI, ST, STI, LEA, LDR and STR is (92_eei_decisions D4, 93 U8). -/
inductive HeadLayout where
  /-- The head is padded to 7 characters: the spec's decision. -/
  | col7
  /-- The mnemonic and exactly two spaces: the named alternative the spec does not adopt. -/
  | literal2
  deriving DecidableEq, Repr

/-- Where the letters of BR's flags stand (92_eei_decisions D5, 93 U7). -/
inductive BrFlagLayout where
  /-- Every flag has its own position: the spec's decision. -/
  | positional
  /-- The letters first, then the spaces: the named alternative the spec does not adopt. -/
  | packed
  deriving DecidableEq, Repr

/-- `HEAD_LAYOUT`, at the value of 92_eei_decisions D4. UNVERIFIED against the original program, unsafe (log 5). -/
def Config.headLayout : HeadLayout := .col7

/-- `BR_FLAG_LAYOUT`, at the value of 92_eei_decisions D5. UNVERIFIED against the original program, unsafe (log 6). -/
def Config.brFlagLayout : BrFlagLayout := .positional

/-- `T_PD`, the settling delay an implementation has (92_eei_decisions D19): open, and no rule reads it (70 R96).
No definition of the model reads it either; safe (log 4). -/
opaque Config.settlingDelay : Nat

end Sys2Proof
end

