-- ==== Sys2Proof/Machine/Flags.lean ====
section
/-! DEFINITION. BR's three flag positions (41_br R63): the only thing this block does with flags, since it holds and
computes no condition code (10_state R20). -/

namespace Sys2Proof.Machine

/-- The letter of a flag that is set, a space for one that is not. -/
def flagChar (set : Bool) (letter : Char) : Char := if set then letter else ' '

/-- The three characters after `BR`: `n`, `z`, `p` each in its own position (41_br R63), or, under the layout the spec
does not adopt, the letters first and then the spaces (92_eei_decisions D5). -/
def brFlags (layout : BrFlagLayout) (n z p : Bool) : Text :=
  let row := [flagChar n 'n', flagChar z 'z', flagChar p 'p']
  match layout with
  | .positional => row
  | .packed => row.filter (· != ' ') ++ row.filter (· == ' ')

end Sys2Proof.Machine
end

