-- ==== Sys2Proof/Machine/Text.lean ====
section
/-! DEFINITION. Numerals, the two opcode-independent renderings, and ASCII packing into a text port
(00_scope R10, 40_datapath R56 to R58). The numeral bases and the character code are the spec's decisions D3, D6, D7:
UNVERIFIED against the original program, unsafe (log 7). -/

namespace Sys2Proof.Machine

/-- The digit `d` of a numeral; the hexadecimal letters are capitals (40_datapath R57). -/
def digitChar (d : Nat) : Char := "0123456789ABCDEF".toList.getD d '0'

/-- The numeral of `k` in a base, most significant digit first, no leading zeros, structural in `fuel`; it is whole
as soon as `fuel` exceeds `k`. -/
def numeral (base : Nat) : (fuel k : Nat) → Text
  | 0, _ => []
  | fuel + 1, k => if k < base then [digitChar k] else numeral base fuel (k / base) ++ [digitChar (k % base)]

/-- `dec(k)`: the decimal numeral, `dec(0) = "0"` (00_scope R10; 92_eei_decisions D6). -/
def dec (k : Nat) : Text := numeral 10 (k + 1) k

/-- `hexU(k)`: the uppercase hexadecimal numeral, `hexU(0) = "0"` (00_scope R10; 92_eei_decisions D7). -/
def hexU (k : Nat) : Text := numeral 16 (k + 1) k

/-- `hex4(w)`: four uppercase hexadecimal digits, digit `k` from the left being `w[15-4k:12-4k]` (40_datapath R57). -/
def hex4 (w : Word) : Text :=
  [digitChar (bits w 15 12).toNat, digitChar (bits w 11 8).toNat, digitChar (bits w 7 4).toNat, digitChar (bits w 3 0).toNat]

/-- `binaryString(w)`: 16 characters, most significant bit first (40_datapath R56). -/
def binaryString (w : Word) : Text :=
  (List.range 16).map fun i => if w.getLsbD (15 - i) then '1' else '0'

/-- `hexString(w)`: a lowercase `x` and the four digits (40_datapath R57). -/
def hexString (w : Word) : Text := 'x' :: hex4 w

/-- The ASCII codes of a text (00_scope R10; 92_eei_decisions D3). -/
def ascii (t : Text) : List Byte := t.map fun c => BitVec.ofNat 8 c.toNat

/-- A text port of `n` positions: the text left-aligned, 0x00 at the positions behind it (40_datapath R58). -/
def packText (n : Nat) (t : Text) : Vector Byte n := Vector.ofFn fun i => (ascii t).getD i.val 0#8

end Sys2Proof.Machine
end

