-- ==== Sys2Proof/Machine/Operands.lean ====
section
/-! DEFINITION. Every operand form of the assembly line, and the heads (40_datapath R49 to R54). -/

namespace Sys2Proof.Machine

/-- `sm(v)`: the sign, always written, and the magnitude in decimal (40_datapath R50). -/
def sm (v : Int) : Text := (if v < 0 then '-' else '+') :: dec v.natAbs

/-- `reg(k)`: `R0` to `R7` (40_datapath R51). -/
def reg (k : Reg) : Text := 'R' :: dec k.toNat

/-- `offop(v)`: `[OFFSET ±d]` (40_datapath R52). -/
def offop (v : Int) : Text := "[OFFSET ".toList ++ sm v ++ "]".toList

/-- `immop(v)`: `#±d` (40_datapath R53). -/
def immop (v : Int) : Text := '#' :: sm v

/-- The trap vector as TRAP writes it: a lowercase `x` and the minimal uppercase numeral (47_trap R76). -/
def vectop (v : BitVec 8) : Text := 'x' :: hexU v.toNat

/-- The one space between two operands (40_datapath R54). -/
def sep : Text := [' ']

/-- `pad7(m)`: the mnemonic and spaces up to 7 characters (40_datapath R49). -/
def pad7 (m : Text) : Text := m ++ List.replicate (7 - m.length) ' '

/-- The head of LD, LDI, ST, STI, LEA, LDR and STR (40_datapath R49; 92_eei_decisions D4). -/
def labelHead (layout : HeadLayout) (m : Text) : Text :=
  match layout with
  | .col7 => pad7 m
  | .literal2 => m ++ "  ".toList

end Sys2Proof.Machine
end

