-- ==== Sys2Proof/Machine/Rom.lean ====
section
/-! DEFINITION. The mnemonic ROM and the mnemonic mapper (40_datapath R47, R48). -/

namespace Sys2Proof.Machine

/-- The constant table of 17 entries, indexed by `mnem_id` (40_datapath R47). No port writes it (10_state R21), so
it is a constant and no field of State: DESIGN CHOICE, safe (log 11). The label texts: UNVERIFIED, unsafe (log 7). -/
def mnemonicRom : Vector Text 17 :=
  #v["BR".toList, "ADD".toList, "LD".toList, "ST".toList, "JSR".toList, "AND".toList, "LDR".toList, "STR".toList,
     "RTI".toList, "NOT".toList, "LDI".toList, "STI".toList, "RET".toList, "[RESERVED]".toList, "LEA".toList,
     "TRAP".toList, "JSRR".toList]

/-- The text of an entry. -/
def romText (id : Fin 17) : Text := mnemonicRom[id]

/-- Mnemonic selection: the opcode, but 16 for opcode 4 with bit 11 set (40_datapath R48). -/
def mnemIdOf (w : Word) : Fin 17 :=
  if opcodeOf w = 4#4 ∧ jsrSel w = true then 16 else (opcodeOf w).toFin.castLE (by decide)

end Sys2Proof.Machine
end

