-- ==== Sys2Proof/Machine/Router.lean ====
section
/-! DEFINITION. The instruction-format router: format classes, their codes, the fields they use and the field-valid
mask (30_encoding R39, R40), and the `reserved` signal (R42). -/

namespace Sys2Proof.Machine

/-- The eleven format classes of 30_encoding R39. -/
inductive Format where
  | br | oprReg | oprImm | pcrel9 | baseoff6 | not2 | jsrOff11 | jsrrBase | trap8 | noopnd | rsvd
  deriving DecidableEq, Repr

/-- The fields a mask bit can stand for (30_encoding R40). -/
inductive Field where
  | rHi | rMid | rLo | nzp | imm5 | offset6 | pcOffset9 | pcOffset11 | trapvect8
  deriving DecidableEq, Repr

/-- The format code of 30_encoding R39. -/
def fmtCode : Format → BitVec 4
  | .br => 0#4
  | .oprReg => 1#4
  | .oprImm => 2#4
  | .pcrel9 => 3#4
  | .baseoff6 => 4#4
  | .not2 => 5#4
  | .jsrOff11 => 6#4
  | .jsrrBase => 7#4
  | .trap8 => 8#4
  | .noopnd => 9#4
  | .rsvd => 10#4

/-- The column "fields used" of 30_encoding R40. -/
def fieldsUsed : Format → List Field
  | .br => [.nzp, .pcOffset9]
  | .oprReg => [.rHi, .rMid, .rLo]
  | .oprImm => [.rHi, .rMid, .imm5]
  | .pcrel9 => [.rHi, .pcOffset9]
  | .baseoff6 => [.rHi, .rMid, .offset6]
  | .not2 => [.rHi, .rMid]
  | .jsrOff11 => [.pcOffset11]
  | .jsrrBase => [.rMid]
  | .trap8 => [.trapvect8]
  | .noopnd => []
  | .rsvd => []

/-- The bit of `fvalid` that stands for a field (30_encoding R40). -/
def maskBit : Field → Nat
  | .rHi => 0
  | .rMid => 1
  | .rLo => 2
  | .nzp => 3
  | .imm5 => 4
  | .offset6 => 5
  | .pcOffset9 => 6
  | .pcOffset11 => 7
  | .trapvect8 => 8

/-- The field-valid mask of a format: one bit for each field it uses (30_encoding R40). -/
def fvalidMask (f : Format) : BitVec 9 :=
  (fieldsUsed f).foldl (fun m x => m ||| (1#9 <<< maskBit x)) 0#9

/-- The format of a word: its opcode's, but for opcodes 1, 5 and 4, where one selector bit decides
(30_encoding R39, R45). -/
def formatOf (w : Word) : Format :=
  match bit w 15, bit w 14, bit w 13, bit w 12 with
  | false, false, false, false => .br
  | false, false, false, true => if immSel w then .oprImm else .oprReg
  | false, false, true, false => .pcrel9
  | false, false, true, true => .pcrel9
  | false, true, false, false => if jsrSel w then .jsrrBase else .jsrOff11
  | false, true, false, true => if immSel w then .oprImm else .oprReg
  | false, true, true, false => .baseoff6
  | false, true, true, true => .baseoff6
  | true, false, false, false => .noopnd
  | true, false, false, true => .not2
  | true, false, true, false => .pcrel9
  | true, false, true, true => .pcrel9
  | true, true, false, false => .noopnd
  | true, true, false, true => .rsvd
  | true, true, true, false => .pcrel9
  | true, true, true, true => .trap8

/-- The bits a format does not read (30_encoding R43). -/
def unreadMask : Format → Word
  | .br => 0x0000#16
  | .oprReg => 0x0018#16
  | .oprImm => 0x0000#16
  | .pcrel9 => 0x0000#16
  | .baseoff6 => 0x0000#16
  | .not2 => 0x003F#16
  | .jsrOff11 => 0x0000#16
  | .jsrrBase => 0x063F#16
  | .trap8 => 0x0F00#16
  | .noopnd => 0x0FFF#16
  | .rsvd => 0x0FFF#16

/-- `reserved`: set exactly for opcode 13 (30_encoding R42). -/
def reservedOf (w : Word) : Bool := decide (opcodeOf w = 13#4)

end Sys2Proof.Machine
end

