-- ==== Sys2Proof/Machine/Render.lean ====
section
/-! DEFINITION. The assembly line twice: by line shape and decoded term (`print`, 40_datapath R60), which the
instructions' meanings use, and straight from the word (`assemblyString`, R55), which the output ports of a settled
word use. -/

namespace Sys2Proof.Machine

/-- The line of BR (41_br R62). -/
def brLine (n z p : Bool) (off : Int) : Text :=
  romText 0 ++ brFlags Config.brFlagLayout n z p ++ "  ".toList ++ offop off

/-- A line with three registers (42_add_and R64, R65, bit 5 clear). -/
def oprRegLine (id : Fin 17) (dr sr1 sr2 : Reg) : Text := pad7 (romText id) ++ reg dr ++ sep ++ reg sr1 ++ sep ++ reg sr2

/-- A line with two registers and an immediate (42_add_and R64, R65, bit 5 set). -/
def oprImmLine (id : Fin 17) (dr sr1 : Reg) (imm : Int) : Text :=
  pad7 (romText id) ++ reg dr ++ sep ++ reg sr1 ++ sep ++ immop imm

/-- A line with a register and a PC-relative offset (43_pc_relative R66 to R70). -/
def pcRelLine (id : Fin 17) (r : Reg) (off : Int) : Text :=
  labelHead Config.headLayout (romText id) ++ reg r ++ sep ++ offop off

/-- A line with a register, a base register and an offset written as an immediate (44_base_offset R71, R72). -/
def baseOffLine (id : Fin 17) (r base : Reg) (off : Int) : Text :=
  labelHead Config.headLayout (romText id) ++ reg r ++ sep ++ reg base ++ sep ++ immop off

/-- The line of NOT (45_not R73). -/
def notLine (dr sr : Reg) : Text := pad7 (romText 9) ++ reg dr ++ sep ++ reg sr

/-- The line of JSR (46_jsr_jsrr R74). -/
def jsrLine (off : Int) : Text := pad7 (romText 4) ++ offop off

/-- The line of JSRR (46_jsr_jsrr R75). -/
def jsrrLine (base : Reg) : Text := pad7 (romText 16) ++ reg base

/-- The line of TRAP (47_trap R76). -/
def trapLine (v : BitVec 8) : Text := pad7 (romText 15) ++ vectop v

/-- A line that is the mnemonic alone, unpadded (48_fixed_text R77 to R79). -/
def fixedLine (id : Fin 17) : Text := romText id

/-- `print`: the line of a decoded term, constructor by constructor (40_datapath R60). -/
def print : Instr → Text
  | .br n z p off => brLine n z p off
  | .addR dr sr1 sr2 => oprRegLine 1 dr sr1 sr2
  | .addI dr sr1 imm => oprImmLine 1 dr sr1 imm
  | .ld r off => pcRelLine 2 r off
  | .st r off => pcRelLine 3 r off
  | .jsr off => jsrLine off
  | .jsrr base => jsrrLine base
  | .andR dr sr1 sr2 => oprRegLine 5 dr sr1 sr2
  | .andI dr sr1 imm => oprImmLine 5 dr sr1 imm
  | .ldr r base off => baseOffLine 6 r base off
  | .str r base off => baseOffLine 7 r base off
  | .rti => fixedLine 8
  | .not dr sr => notLine dr sr
  | .ldi r off => pcRelLine 10 r off
  | .sti r off => pcRelLine 11 r off
  | .ret => fixedLine 12
  | .reserved => fixedLine 13
  | .lea r off => pcRelLine 14 r off
  | .trap v => trapLine v

/-- `asm(w)`: the dispatch of 40_datapath R55, straight from the bits of the word. -/
def assemblyString (w : Word) : Text :=
  let m := romText (mnemIdOf w)
  match formatOf w with
  | .br => "BR".toList ++ brFlags Config.brFlagLayout (bit w 11) (bit w 10) (bit w 9) ++ "  ".toList ++ offop (sext (bits w 8 0))
  | .oprReg => pad7 m ++ reg (bits w 11 9) ++ " ".toList ++ reg (bits w 8 6) ++ " ".toList ++ reg (bits w 2 0)
  | .oprImm => pad7 m ++ reg (bits w 11 9) ++ " ".toList ++ reg (bits w 8 6) ++ " ".toList ++ immop (sext (bits w 4 0))
  | .pcrel9 => labelHead Config.headLayout m ++ reg (bits w 11 9) ++ " ".toList ++ offop (sext (bits w 8 0))
  | .baseoff6 =>
    labelHead Config.headLayout m ++ reg (bits w 11 9) ++ " ".toList ++ reg (bits w 8 6) ++ " ".toList ++ immop (sext (bits w 5 0))
  | .not2 => "NOT    ".toList ++ reg (bits w 11 9) ++ " ".toList ++ reg (bits w 8 6)
  | .jsrrBase => "JSRR   ".toList ++ reg (bits w 8 6)
  | .jsrOff11 => "JSR    ".toList ++ offop (sext (bits w 10 0))
  | .trap8 => "TRAP   x".toList ++ hexU (bits w 7 0).toNat
  | .noopnd => m
  | .rsvd => m

end Sys2Proof.Machine
end

