-- ==== Sys2Proof/Machine/Ports.lean ====
section
/-! DEFINITION. The output ports of 10_state R16 and R17, and the function of the word each one is (R22, R23). -/

namespace Sys2Proof.Machine

/-- Every output port, under the spec's name for it in camel case. A port one bit wide is a Bool. -/
structure Ports where
  /-- `opcode`, 4 bits. -/
  opcode : BitVec 4
  /-- `fmt`, 4 bits. -/
  fmt : BitVec 4
  /-- `fvalid`, 9 bits. -/
  fvalid : BitVec 9
  /-- `mnem_id`, 5 bits. -/
  mnemId : BitVec 5
  /-- `reserved`, 1 bit. -/
  reserved : Bool
  /-- `f_r119`, 3 bits. -/
  fR119 : Reg
  /-- `f_r86`, 3 bits. -/
  fR86 : Reg
  /-- `f_r20`, 3 bits. -/
  fR20 : Reg
  /-- `f_n`, 1 bit. -/
  fN : Bool
  /-- `f_z`, 1 bit. -/
  fZ : Bool
  /-- `f_p`, 1 bit. -/
  fP : Bool
  /-- `f_b5`, 1 bit. -/
  fB5 : Bool
  /-- `f_b11`, 1 bit. -/
  fB11 : Bool
  /-- `sx_imm5`, 16 bits. -/
  sxImm5 : Word
  /-- `sx_off6`, 16 bits. -/
  sxOff6 : Word
  /-- `sx_off9`, 16 bits. -/
  sxOff9 : Word
  /-- `sx_off11`, 16 bits. -/
  sxOff11 : Word
  /-- `zx_vect8`, 8 bits. -/
  zxVect8 : BitVec 8
  /-- `bin_text`, 16 characters. -/
  binText : Vector Byte 16
  /-- `hex_text`, 5 characters. -/
  hexText : Vector Byte 5
  /-- `asm_text`, 23 character positions. -/
  asmText : Vector Byte 23
  /-- `asm_len`, 5 bits. -/
  asmLen : BitVec 5
  deriving DecidableEq, Repr

/-- The value every output port has while the word `w` stands on the input port (10_state R16, R17, R23). -/
def portsOf (w : Word) : Ports where
  opcode := opcodeOf w
  fmt := fmtCode (formatOf w)
  fvalid := fvalidMask (formatOf w)
  mnemId := BitVec.ofNat 5 (mnemIdOf w).val
  reserved := reservedOf w
  fR119 := bits w 11 9
  fR86 := bits w 8 6
  fR20 := bits w 2 0
  fN := bit w 11
  fZ := bit w 10
  fP := bit w 9
  fB5 := bit w 5
  fB11 := bit w 11
  sxImm5 := sext16 (bits w 4 0)
  sxOff6 := sext16 (bits w 5 0)
  sxOff9 := sext16 (bits w 8 0)
  sxOff11 := sext16 (bits w 10 0)
  zxVect8 := bits w 7 0
  binText := packText 16 (binaryString w)
  hexText := packText 5 (hexString w)
  asmText := packText 23 (assemblyString w)
  asmLen := BitVec.ofNat 5 (assemblyString w).length

/-- The rendering an `asm_text` port holds: its first `asm_len` characters (40_datapath R58). -/
def Ports.asmLine (p : Ports) : List Byte := p.asmText.toList.take p.asmLen.toNat

end Sys2Proof.Machine
end

