-- ==== Sys2Proof/Machine/State.lean ====
section
/-! DEFINITION. The state: the input port, the output ports, and the words the driver has still to present. The block
stores nothing (10_state R13); these are the values its ports have. It has no memory (20_memory R24), so no list of
memory cells stands here. -/

namespace Sys2Proof.Machine

/-- The ports of the block between two decodes, and the driver's words. -/
structure State where
  /-- The word on the input port (10_state R14, R15). -/
  word : Word
  /-- The words the driver has still to present, the next one first. The MODEL's own field, not the spec's: the driver
  "supplies words in sequence order" (00_scope, glossary). DESIGN CHOICE, safe (log 2). -/
  pending : List Word
  /-- The output ports (10_state R16, R17). -/
  out : Ports
  deriving DecidableEq, Repr

/-- Why a step could stop with a fault: there is no way. The block "has no fault, refusal or stuck outcome for any
word" (00_scope R5, 60_exceptions R80), so this type has no value: DESIGN CHOICE,
safe (log 10). -/
inductive Fault where
  deriving DecidableEq, Repr

/-- Why a step could be refused. -/
inductive Refusal where
  /-- The host's interface has this reason for an instruction without a meaning. Nobody raises it: every instruction
  has its meaning. Safe. -/
  | notModelled (mnemonic : String)
  deriving DecidableEq, Repr

/-- The machine right after power-up. Every output is defined by the word at all times (10_state R22, 70 R92); the
word before the driver presents one is DESIGN CHOICE 0x0000, unsafe (log 1), and nothing is pending (log 2). -/
def State.reset : State where
  word := 0x0000#16
  pending := []
  out := portsOf 0x0000#16

end Sys2Proof.Machine
end

