-- ==== Sys2Proof/Machine/Ops.lean ====
section
/-! DEFINITION. What can happen to the state: the driver presents a word, and an instruction drives the output ports.
There is no memory, no register and no exception entry among the operations, because the block has none
(10_state R13, 20_memory R24, 60_exceptions R80, R83, R84). -/

namespace Sys2Proof.Machine

/-- The driver presents its next word on the input port (70 R93); with none left the port keeps its word (log 3). -/
def State.present (s : State) : State :=
  match s.pending with
  | [] => s
  | w :: rest => { s with word := w, pending := rest }

/-- The driver's next word is `w`. -/
def State.withNextWord (s : State) (w : Word) : State := { s with pending := w :: s.pending }

/-- What every instruction does: it drives all output ports and touches nothing else. Where the word on the port is not
the instruction's own, which no run reaches, this split is DESIGN CHOICE, safe (log 12).
* `opcode`, `fmt`, `fvalid`, `mnem_id`, `reserved`: the opcode extractor's, the router's and the mnemonic mapper's
  (30_encoding R33, R40, R42; 40_datapath R48), as the instruction's own rule gives them;
* the field ports: the slices and extensions of the word, driven for every word (10_state R16, 30_encoding R37, R38);
* `bin_text`, `hex_text`: the raw renderings of the word (40_datapath R56, R57);
* `asm_text`, `asm_len`: the instruction's line (40_datapath R58). -/
def State.deliver (s : State) (op : BitVec 4) (f : Format) (id : Fin 17) (rsv : Bool) (line : Text) : State where
  word := s.word
  pending := s.pending
  out :=
    { opcode := op
      fmt := fmtCode f
      fvalid := fvalidMask f
      mnemId := BitVec.ofNat 5 id.val
      reserved := rsv
      fR119 := fieldRHi s.word
      fR86 := fieldRMid s.word
      fR20 := fieldRLo s.word
      fN := flagN s.word
      fZ := flagZ s.word
      fP := flagP s.word
      fB5 := immSel s.word
      fB11 := jsrSel s.word
      sxImm5 := sext16 (fieldImm5 s.word)
      sxOff6 := sext16 (fieldOff6 s.word)
      sxOff9 := sext16 (fieldOff9 s.word)
      sxOff11 := sext16 (fieldOff11 s.word)
      zxVect8 := fieldVect8 s.word
      binText := packText 16 (binaryString s.word)
      hexText := packText 5 (hexString s.word)
      asmText := packText 23 line
      asmLen := BitVec.ofNat 5 line.length }

end Sys2Proof.Machine
end

