-- ==== Sys2Proof/Machine/Arith.lean ====
section
/-! DEFINITION. ADD, AND and NOT: decoded and rendered, nothing computed (42_add_and R64, R65; 45_not R73). -/

namespace Sys2Proof.Machine

/-- ADD, register form (42_add_and R64). -/
def execAddR (dr sr1 sr2 : Reg) (s : State) : Host.Outcome State Fault Refusal :=
  .next (s.deliver 1#4 .oprReg 1 false (oprRegLine 1 dr sr1 sr2))

/-- ADD, immediate form (42_add_and R64). -/
def execAddI (dr sr1 : Reg) (imm : Int) (s : State) : Host.Outcome State Fault Refusal :=
  .next (s.deliver 1#4 .oprImm 1 false (oprImmLine 1 dr sr1 imm))

/-- AND, register form (42_add_and R65). -/
def execAndR (dr sr1 sr2 : Reg) (s : State) : Host.Outcome State Fault Refusal :=
  .next (s.deliver 5#4 .oprReg 5 false (oprRegLine 5 dr sr1 sr2))

/-- AND, immediate form (42_add_and R65). -/
def execAndI (dr sr1 : Reg) (imm : Int) (s : State) : Host.Outcome State Fault Refusal :=
  .next (s.deliver 5#4 .oprImm 5 false (oprImmLine 5 dr sr1 imm))

/-- NOT (45_not R73). -/
def execNot (dr sr : Reg) (s : State) : Host.Outcome State Fault Refusal :=
  .next (s.deliver 9#4 .not2 9 false (notLine dr sr))

end Sys2Proof.Machine
end

