-- ==== Sys2Proof/Machine/Branch.lean ====
section
/-! DEFINITION. BR, JSR and JSRR: decoded and rendered, no target computed (41_br R62, 46_jsr_jsrr R74, R75;
10_state R19). -/

namespace Sys2Proof.Machine

/-- BR (41_br R62). -/
def execBr (n z p : Bool) (off : Int) (s : State) : Host.Outcome State Fault Refusal :=
  .next (s.deliver 0#4 .br 0 false (brLine n z p off))

/-- JSR (46_jsr_jsrr R74). -/
def execJsr (off : Int) (s : State) : Host.Outcome State Fault Refusal :=
  .next (s.deliver 4#4 .jsrOff11 4 false (jsrLine off))

/-- JSRR (46_jsr_jsrr R75): mnemonic entry 16. -/
def execJsrr (base : Reg) (s : State) : Host.Outcome State Fault Refusal :=
  .next (s.deliver 4#4 .jsrrBase 16 false (jsrrLine base))

end Sys2Proof.Machine
end

