-- ==== Sys2Proof/Machine/LoadStore.lean ====
section
/-! DEFINITION. LD, LDI, ST, STI, LEA, LDR and STR: decoded and rendered, no address formed and no memory touched
(43_pc_relative R66 to R70, 44_base_offset R71, R72; 20_memory R24). -/

namespace Sys2Proof.Machine

/-- LD (43_pc_relative R66). -/
def execLd (r : Reg) (off : Int) (s : State) : Host.Outcome State Fault Refusal :=
  .next (s.deliver 2#4 .pcrel9 2 false (pcRelLine 2 r off))

/-- LDI (43_pc_relative R67). -/
def execLdi (r : Reg) (off : Int) (s : State) : Host.Outcome State Fault Refusal :=
  .next (s.deliver 10#4 .pcrel9 10 false (pcRelLine 10 r off))

/-- ST (43_pc_relative R68). -/
def execSt (r : Reg) (off : Int) (s : State) : Host.Outcome State Fault Refusal :=
  .next (s.deliver 3#4 .pcrel9 3 false (pcRelLine 3 r off))

/-- STI (43_pc_relative R69). -/
def execSti (r : Reg) (off : Int) (s : State) : Host.Outcome State Fault Refusal :=
  .next (s.deliver 11#4 .pcrel9 11 false (pcRelLine 11 r off))

/-- LEA (43_pc_relative R70). -/
def execLea (r : Reg) (off : Int) (s : State) : Host.Outcome State Fault Refusal :=
  .next (s.deliver 14#4 .pcrel9 14 false (pcRelLine 14 r off))

/-- LDR (44_base_offset R71). -/
def execLdr (r base : Reg) (off : Int) (s : State) : Host.Outcome State Fault Refusal :=
  .next (s.deliver 6#4 .baseoff6 6 false (baseOffLine 6 r base off))

/-- STR (44_base_offset R72). -/
def execStr (r base : Reg) (off : Int) (s : State) : Host.Outcome State Fault Refusal :=
  .next (s.deliver 7#4 .baseoff6 7 false (baseOffLine 7 r base off))

end Sys2Proof.Machine
end

