-- ==== Sys2Proof/Machine/System.lean ====
section
/-! DEFINITION. TRAP, RET, RTI and the reserved opcode: decoded and rendered. No trap is taken or returned from and no
privilege is checked (47_trap R76, 48_fixed_text R77 to R79; 60_exceptions R83, R84, R86). -/

namespace Sys2Proof.Machine

/-- TRAP (47_trap R76). -/
def execTrap (vect : BitVec 8) (s : State) : Host.Outcome State Fault Refusal :=
  .next (s.deliver 15#4 .trap8 15 false (trapLine vect))

/-- RET, every word of opcode 12 (48_fixed_text R77; 90_conflicts C5). -/
def execRet (s : State) : Host.Outcome State Fault Refusal :=
  .next (s.deliver 12#4 .noopnd 12 false (fixedLine 12))

/-- RTI (48_fixed_text R78). -/
def execRti (s : State) : Host.Outcome State Fault Refusal :=
  .next (s.deliver 8#4 .noopnd 8 false (fixedLine 8))

/-- The reserved opcode 13: `reserved` is set, and that is all (48_fixed_text R79, 30_encoding R42). -/
def execReserved (s : State) : Host.Outcome State Fault Refusal :=
  .next (s.deliver 13#4 .rsvd 13 true (fixedLine 13))

end Sys2Proof.Machine
end

