-- ==== Sys2Proof/Machine/Dispatch.lean ====
section
/-! DEFINITION. One instruction's effect on the state: one arm per constructor, one meaning per arm. -/

namespace Sys2Proof.Machine

def exec (i : Instr) (s : State) : Host.Outcome State Fault Refusal :=
  match i with
  | .br n z p off => Sys2Proof.Machine.execBr n z p off s
  | .addR dr sr1 sr2 => Sys2Proof.Machine.execAddR dr sr1 sr2 s
  | .addI dr sr1 imm => Sys2Proof.Machine.execAddI dr sr1 imm s
  | .ld r off => Sys2Proof.Machine.execLd r off s
  | .st r off => Sys2Proof.Machine.execSt r off s
  | .jsr off => Sys2Proof.Machine.execJsr off s
  | .jsrr base => Sys2Proof.Machine.execJsrr base s
  | .andR dr sr1 sr2 => Sys2Proof.Machine.execAndR dr sr1 sr2 s
  | .andI dr sr1 imm => Sys2Proof.Machine.execAndI dr sr1 imm s
  | .ldr r base off => Sys2Proof.Machine.execLdr r base off s
  | .str r base off => Sys2Proof.Machine.execStr r base off s
  | .rti => Sys2Proof.Machine.execRti s
  | .not dr sr => Sys2Proof.Machine.execNot dr sr s
  | .ldi r off => Sys2Proof.Machine.execLdi r off s
  | .sti r off => Sys2Proof.Machine.execSti r off s
  | .ret => Sys2Proof.Machine.execRet s
  | .reserved => Sys2Proof.Machine.execReserved s
  | .lea r off => Sys2Proof.Machine.execLea r off s
  | .trap vect => Sys2Proof.Machine.execTrap vect s

end Sys2Proof.Machine
end

