-- ==== Sys2Proof/Machine/Step.lean ====
section
/-! DEFINITION. One step: the driver presents its next word, and the block settles on the outputs of that word, as one
atomic function application (70 R96). -/

namespace Sys2Proof.Machine

/-- The word now on the input port is decoded and its instruction drives the outputs (30_encoding R46; 70 R96). -/
def step (s : State) : Host.Outcome State Fault Refusal := exec (decode s.present.word) s.present

/-- The instruction of `nbits` bits `w` becomes the word the driver presents next (log 9). -/
def State.withFetchWord (s : State) (nbits w : Nat) : State := s.withNextWord (tableWord nbits w)

end Sys2Proof.Machine
end

