-- ==== Sys2Proof/Safety.lean ====
section
/-! DEFINITION. The terms the claims are made in: settled outputs, legal output codes, what an instruction leaves
alone, and how a numeral or a text port is read. -/

namespace Sys2Proof.Machine

/-- Every output port has the value the rules give it for the word on the input port (10_state R22, R23). -/
abbrev State.Settled (s : State) : Prop := s.out = portsOf s.word

/-- The output codes are among those that exist: `fmt` 0 to 10 (30_encoding R39), `mnem_id` 0 to 16 (40_datapath R47),
a line of 3 to 23 characters (R61), `reserved` exactly for opcode 13 (30_encoding R42); and the line's characters are
printable ASCII, with 0x00 at the positions behind it (00_scope R10, 40_datapath R58). -/
abbrev Ports.Legal (p : Ports) : Prop :=
  p.fmt.toNat ≤ 10 ∧ p.mnemId.toNat ≤ 16 ∧ 3 ≤ p.asmLen.toNat ∧ p.asmLen.toNat ≤ 23 ∧
  (p.reserved = true ↔ p.opcode = 13#4) ∧
  ∀ k : Fin 23, if k.val < p.asmLen.toNat then 0x20 ≤ p.asmText[k].toNat ∧ p.asmText[k].toNat ≤ 0x7E else p.asmText[k] = 0#8

/-- The ports that no opcode changes carry their slices of the word, and its two raw renderings
(10_state R16, R17; 92_eei_decisions D10). -/
abbrev Ports.FieldsFrom (p : Ports) (w : Word) : Prop :=
  p.fR119 = bits w 11 9 ∧ p.fR86 = bits w 8 6 ∧ p.fR20 = bits w 2 0 ∧
  p.fN = bit w 11 ∧ p.fZ = bit w 10 ∧ p.fP = bit w 9 ∧ p.fB5 = bit w 5 ∧ p.fB11 = bit w 11 ∧
  p.sxImm5 = sext16 (bits w 4 0) ∧ p.sxOff6 = sext16 (bits w 5 0) ∧
  p.sxOff9 = sext16 (bits w 8 0) ∧ p.sxOff11 = sext16 (bits w 10 0) ∧ p.zxVect8 = bits w 7 0 ∧
  p.binText.toList = ascii (binaryString w) ∧ p.hexText.toList = ascii (hexString w)

/-- What an instruction leaves as it was: the word on the input port (10_state R14: "never mutated") and the words the
driver has still to present. Everything else in the state is an output port. -/
abbrev State.SameInputs (t s : State) : Prop := t.word = s.word ∧ t.pending = s.pending

/-- The outputs that the decoded term alone decides (40_datapath R60). -/
abbrev Ports.SameDecode (p q : Ports) : Prop :=
  p.opcode = q.opcode ∧ p.fmt = q.fmt ∧ p.fvalid = q.fvalid ∧ p.mnemId = q.mnemId ∧ p.reserved = q.reserved ∧
  p.asmText = q.asmText ∧ p.asmLen = q.asmLen

/-- The value of a digit character, `0` to `9` and `A` to `F`. -/
def digitValue (c : Char) : Nat := "0123456789ABCDEF".toList.idxOf c

/-- A numeral read in a base, most significant digit first. -/
def readNumeral (base : Nat) (t : Text) : Nat := t.foldl (fun acc c => acc * base + digitValue c) 0

/-- The characters a list of ASCII codes stands for. -/
def charsOf (l : List Byte) : Text := l.map fun b => Char.ofNat b.toNat

end Sys2Proof.Machine
end

