-- ==== Sys2Proof/Certificates/Slice0/Obligations.lean ====
section
/-! DEFINITION. The statements for the provers. Each docstring names the rule of spec/ it formalises, or says what of
the model's or the spec's own choices it rests on. -/

open Sys2Proof Sys2Proof.Machine

/-! ## Encoding -/

/-- A step runs the decoded instruction: with a word pending, that word reaches the input port and its instruction is
executed there; with none pending, the port keeps its word and that word's instruction is executed. Rests on the
model's own `pending` (log 2, log 3) for 70 R93 and R96. -/
def Obligations.StepRunsDecodedInstruction : Prop :=
  (∀ (s : State) (w : Word) (rest : List Word), s.pending = w :: rest →
    step s = exec (decode w) { s with word := w, pending := rest }) ∧
  (∀ s : State, s.pending = [] → step s = exec (decode s.word) s)

/-- Words written out in 95_test_vectors decode to the terms 30_encoding R46 gives them. A sanity statement. -/
def Obligations.SpecWordsDecode : Prop :=
  decode 0x0A01#16 = .br true false true 1 ∧ decode 0x105A#16 = .addR 0 1 2 ∧ decode 0x127F#16 = .addI 1 1 (-1) ∧
  decode 0x5B60#16 = .andI 5 5 0 ∧ decode 0xA5C3#16 = .ldi 2 (-61) ∧ decode 0x37F8#16 = .st 3 (-8) ∧
  decode 0x7FE0#16 = .str 7 7 (-32) ∧ decode 0x92BF#16 = .not 1 2 ∧ decode 0x4400#16 = .jsr (-1024) ∧
  decode 0x4E3F#16 = .jsrr 0 ∧ decode 0xFF25#16 = .trap 0x25#8 ∧ decode 0xC1C0#16 = .ret ∧
  decode 0x8FFF#16 = .rti ∧ decode 0xD123#16 = .reserved

/-- Decode undoes encode, whatever the unread bits hold: every operand of every well-formed instruction is read back
(30_encoding R39, R43, R46). -/
def Obligations.DecodeUndoesEncode : Prop :=
  ∀ (fill : Word) (i : Instr), i.wellFormed = true → decode (encodeWith fill i) = i

/-- Encode undoes decode: no bit of a word is lost between the decoded term and the bits its format does not read
(30_encoding R39, R43, R46). -/
def Obligations.EncodeUndoesDecode : Prop :=
  ∀ w : Word, encodeWith w (decode w) = w

/-- 30_encoding R46, clause by clause: every decoded term has its operands in the ranges written beside its constructor,
and `decode` goes by the opcode `w[15:12]` and the selector bit of opcodes 1, 4 and 5. -/
def Obligations.DecodeByOpcode : Prop :=
  ∀ w : Word, (decode w).wellFormed = true ∧
    (bits w 15 12 = 0#4 → decode w = .br (bit w 11) (bit w 10) (bit w 9) (sext (bits w 8 0))) ∧
    (bits w 15 12 = 1#4 → decode w =
      if bit w 5 then .addI (bits w 11 9) (bits w 8 6) (sext (bits w 4 0)) else .addR (bits w 11 9) (bits w 8 6) (bits w 2 0)) ∧
    (bits w 15 12 = 5#4 → decode w =
      if bit w 5 then .andI (bits w 11 9) (bits w 8 6) (sext (bits w 4 0)) else .andR (bits w 11 9) (bits w 8 6) (bits w 2 0)) ∧
    (bits w 15 12 = 2#4 → decode w = .ld (bits w 11 9) (sext (bits w 8 0))) ∧
    (bits w 15 12 = 10#4 → decode w = .ldi (bits w 11 9) (sext (bits w 8 0))) ∧
    (bits w 15 12 = 3#4 → decode w = .st (bits w 11 9) (sext (bits w 8 0))) ∧
    (bits w 15 12 = 11#4 → decode w = .sti (bits w 11 9) (sext (bits w 8 0))) ∧
    (bits w 15 12 = 14#4 → decode w = .lea (bits w 11 9) (sext (bits w 8 0))) ∧
    (bits w 15 12 = 6#4 → decode w = .ldr (bits w 11 9) (bits w 8 6) (sext (bits w 5 0))) ∧
    (bits w 15 12 = 7#4 → decode w = .str (bits w 11 9) (bits w 8 6) (sext (bits w 5 0))) ∧
    (bits w 15 12 = 9#4 → decode w = .not (bits w 11 9) (bits w 8 6)) ∧
    (bits w 15 12 = 4#4 → decode w = if bit w 11 then .jsrr (bits w 8 6) else .jsr (sext (bits w 10 0))) ∧
    (bits w 15 12 = 15#4 → decode w = .trap (bits w 7 0)) ∧
    (bits w 15 12 = 12#4 → decode w = .ret) ∧
    (bits w 15 12 = 8#4 → decode w = .rti) ∧
    (bits w 15 12 = 13#4 → decode w = .reserved)

/-- The `match`/`mask` pairs of the 19 rows of spec/opcode_table.json cover every word exactly once
(30_encoding, preamble), and the row that covers a word is that of the instruction it decodes to. -/
def Obligations.EveryWordMatchesOneRow : Prop :=
  ∀ w : Word,
    [((0x0000#16, 0xF000#16) : Word × Word), (0x1000#16, 0xF020#16), (0x1020#16, 0xF020#16), (0x2000#16, 0xF000#16),
     (0x3000#16, 0xF000#16), (0x4000#16, 0xF800#16), (0x4800#16, 0xF800#16), (0x5000#16, 0xF020#16),
     (0x5020#16, 0xF020#16), (0x6000#16, 0xF000#16), (0x7000#16, 0xF000#16), (0x8000#16, 0xF000#16),
     (0x9000#16, 0xF000#16), (0xA000#16, 0xF000#16), (0xB000#16, 0xF000#16), (0xC000#16, 0xF000#16),
     (0xD000#16, 0xF000#16), (0xE000#16, 0xF000#16), (0xF000#16, 0xF000#16)].filter
      (fun row => w &&& row.2 == row.1) = [tableRow (decode w)]

/-- Bits a format does not read reach no output but `bin_text`, `hex_text` and the field ports: two words that differ
in such bits only have the same opcode, format, mask, mnemonic, `reserved` and assembly line (derived: 30_encoding R43). -/
def Obligations.UnreadBitsDoNotMatter : Prop :=
  ∀ (s : State) (w v : Word), (w ^^^ v) &&& ~~~ unreadMask (formatOf w) = 0#16 →
    ∃ t u : State, step (s.withNextWord w) = .next t ∧ step (s.withNextWord v) = .next u ∧ t.out.SameDecode u.out

/-! ## The machine as a whole -/

/-- Every step settles the block: from whatever port values, it answers a next state whose every output port has the
value the rules give it for the word now on the input port (10_state R23). No premise on the state before it is needed,
so the settled form is kept a fortiori. -/
def Obligations.StepSettlesOutputs : Prop :=
  ∀ s : State, ∃ t, step s = .next t ∧ t.Settled

/-- Once settled, the block stays as it is while the word stays: the instruction of the word on the port changes nothing,
and a step keeps the settled form (10_state R22, R23). -/
def Obligations.SettledIsInvariant : Prop :=
  (∀ s t : State, s.Settled → exec (decode s.word) s = .next t → t = s) ∧
  (∀ s t : State, s.Settled → step s = .next t → t.Settled)

/-- The output codes stay legal: `fmt` 0 to 10, `mnem_id` 0 to 16, a line of 3 to 23 printable characters with 0x00
behind it, `reserved` exactly for opcode 13. Every step gives such outputs, whatever the outputs before it (derived:
30_encoding R39 and R42, 40_datapath R47, R58 and R61). -/
def Obligations.StepKeepsOutputsLegal : Prop :=
  ∀ s t : State, step s = .next t → t.out.Legal

/-- The outputs at power-up: settled and legal, with the values 95_test_vectors L1-5 lists for the word 0x0000. That
this is the word at power-up is the model's choice (log 1). -/
def Obligations.ResetOutputs : Prop :=
  State.reset.Settled ∧ State.reset.out.Legal ∧ State.reset.out.opcode = 0#4 ∧ State.reset.out.fmt = 0#4 ∧
  State.reset.out.fvalid = 0x048#9 ∧ State.reset.out.mnemId = 0#5 ∧ State.reset.out.reserved = false ∧
  State.reset.out.asmLine = ascii "BR     [OFFSET +0]".toList ∧ State.reset.out.hexText.toList = ascii "x0000".toList

/-- No word stops the machine: every step from every state is a next state, and so is every instruction in every state
(00_scope R5). -/
def Obligations.NoWordStops : Prop :=
  (∀ s : State, ∃ t, step s = .next t) ∧ (∀ (i : Instr) (s : State), ∃ t, exec i s = .next t)

/-- Every well-formed instruction completes with its own effect in every state: the line it puts on the port is the
text of its decoded term, `opcode` is its row's, `reserved` is set for the reserved opcode alone, the field ports carry
the slices of the word on the port, and the word is left alone (derived: 40_datapath R58 and R60, 10_state R14, R16).
That it says so where the port holds another word, which no run reaches, rests on the model's choice of log 12. -/
def Obligations.EveryInstructionCompletes : Prop :=
  ∀ (i : Instr) (s : State), i.wellFormed = true →
    ∃ t, exec i s = .next t ∧ t.out.asmLine = ascii (print i) ∧ t.out.asmLen.toNat = (print i).length ∧
      t.out.opcode = bits (tableRow i).1 15 12 ∧ (t.out.reserved = true ↔ i = .reserved) ∧
      t.out.FieldsFrom s.word ∧ t.SameInputs s

/-- The frame of every instruction: the word on the input port is never changed (10_state R14) and the driver's
words are left alone; what changes is output ports only. -/
def Obligations.InstructionsKeepTheWord : Prop :=
  ∀ (i : Instr) (s t : State), exec i s = .next t → t.SameInputs s ∧ t = { s with out := t.out }

/-- Two applications to the same word give identical outputs, and a previous word has no influence (10_state R23):
whatever two machines had on their ports before, if the same word is on their input ports after a step, their outputs
are the same. -/
def Obligations.OutputsDependOnTheWordOnly : Prop :=
  ∀ s u s' u' : State, step s = .next s' → step u = .next u' → s'.word = u'.word → s'.out = u'.out

/-- Words presented back to back: after `k + 1` steps the outputs are those of the driver's word number `k`, whatever
words came before it and whatever state the run began in (70 R94; 95_test_vectors L3). The driver's words stand in the
model's own `pending` (log 2). -/
def Obligations.RunDeliversEachWord : Prop :=
  ∀ (k : Nat) (s : State) (w : Word), s.pending[k]? = some w →
    ∃ t, Host.Core.run Sys2Proof.core (k + 1) s = .next t ∧ t.word = w ∧ t.pending = s.pending.drop (k + 1) ∧
      t.out = portsOf w

/-- A decode is idempotent: decoding the same word twice yields identical outputs (20_memory R27). -/
def Obligations.DecodingTwiceIsIdempotent : Prop :=
  ∀ (s t u : State) (w : Word), s.pending = [w, w] → step s = .next t → step t = .next u → u.out = t.out ∧ u.word = t.word

/-- The field ports carry their slices for every instruction in every state, and the raw renderings the digits of the
word (30_encoding R37, 40_datapath R56 and R57; that they are driven for every word is the spec's decision D10; where the port holds another word than
the instruction's, log 12). Slices and digits are given by arithmetic on the word's number. -/
def Obligations.FieldPortsDrivenForEveryInstruction : Prop :=
  ∀ (i : Instr) (s : State), ∃ t, exec i s = .next t ∧
    t.out.fR119.toNat = s.word.toNat / 512 % 8 ∧ t.out.fR86.toNat = s.word.toNat / 64 % 8 ∧
    t.out.fR20.toNat = s.word.toNat % 8 ∧ t.out.fN.toNat = s.word.toNat / 2048 % 2 ∧
    t.out.fZ.toNat = s.word.toNat / 1024 % 2 ∧ t.out.fP.toNat = s.word.toNat / 512 % 2 ∧
    t.out.fB5.toNat = s.word.toNat / 32 % 2 ∧ t.out.fB11.toNat = s.word.toNat / 2048 % 2 ∧
    t.out.sxImm5.toNat % 32 = s.word.toNat % 32 ∧ t.out.sxOff6.toNat % 64 = s.word.toNat % 64 ∧
    t.out.sxOff9.toNat % 512 = s.word.toNat % 512 ∧ t.out.sxOff11.toNat % 2048 = s.word.toNat % 2048 ∧
    t.out.zxVect8.toNat = s.word.toNat % 256 ∧
    (∀ k : Fin 16, t.out.binText[k] = if s.word.toNat / 2 ^ (15 - k.val) % 2 = 1 then 0x31#8 else 0x30#8) ∧
    t.out.hexText[0] = 0x78#8 ∧
    (∀ k : Fin 4, t.out.hexText[k.val + 1]? =
      (ascii "0123456789ABCDEF".toList)[s.word.toNat / 16 ^ (3 - k.val) % 16]?)

/-! ## Slicer, sign-extender, text primitives -/

/-- 00_scope R8: `w[hi:lo] = floor(w / 2^lo) mod 2^(hi-lo+1)`. -/
def Obligations.SliceIsQuotientAndRemainder : Prop :=
  ∀ (w : Word) (hi lo : Nat) (h : lo ≤ hi ∧ hi ≤ 15),
    (bits w hi lo h).toNat = w.toNat / 2 ^ lo % 2 ^ (hi - lo + 1)

/-- 30_encoding R35: the single-bit test is the one-bit slice being non-zero. -/
def Obligations.BitTestIsOneBitSlice : Prop :=
  ∀ (w : Word) (n : Nat) (h : n ≤ 15), (bit w n h = true ↔ (bits w n n ⟨Nat.le_refl n, h⟩).toNat ≠ 0)

/-- 30_encoding R36: the extended value by the sign bit, and the same as 16 bits, copies of the sign bit above the
field. -/
def Obligations.SignExtension : Prop :=
  ∀ (n : Nat) (h : 1 ≤ n ∧ n ≤ 16) (v : BitVec n),
    (v.getLsbD (n - 1) = false → sext v h = v.toNat) ∧
    (v.getLsbD (n - 1) = true → sext v h = (v.toNat : Int) - 2 ^ n) ∧
    (∀ k, k < 16 → (sext16 v h).getLsbD k = if k < n then v.getLsbD k else v.getLsbD (n - 1)) ∧
    (sext16 v h).toInt = sext v h

/-- The round trip and the sign of the sign-extender (the last paragraph of 30_encoding R36, which the spec marks as
derived; the source's property 95 L1-P3). -/
def Obligations.SignExtensionRoundTrip : Prop :=
  ∀ (n : Nat) (h : 1 ≤ n ∧ n ≤ 16) (v : BitVec n),
    sext v h % 2 ^ n = v.toNat ∧ (0 ≤ sext v h ↔ v.getLsbD (n - 1) = false) ∧ (sext v h < 0 ↔ v.getLsbD (n - 1) = true)

/-- The ranges of the signed fields (30_encoding R38, derived there), and that the extended ports carry those values. -/
def Obligations.SignedPortRanges : Prop :=
  ∀ (i : Instr) (s t : State), exec i s = .next t →
    (-16 ≤ t.out.sxImm5.toInt ∧ t.out.sxImm5.toInt ≤ 15) ∧ (-32 ≤ t.out.sxOff6.toInt ∧ t.out.sxOff6.toInt ≤ 31) ∧
    (-256 ≤ t.out.sxOff9.toInt ∧ t.out.sxOff9.toInt ≤ 255) ∧ (-1024 ≤ t.out.sxOff11.toInt ∧ t.out.sxOff11.toInt ≤ 1023)

/-- The numerals name their numbers, with no leading zero: `dec` in base 10, `hexU` in base 16 (00_scope R10; the bases
are the spec's decisions D6 and D7). -/
def Obligations.NumeralsReadBack : Prop :=
  ∀ k : Nat,
    readNumeral 10 (dec k) = k ∧ readNumeral 16 (hexU k) = k ∧
    (∀ c ∈ dec k, digitValue c < 10) ∧ (∀ c ∈ hexU k, digitValue c < 16) ∧
    (0 < k → (dec k).head? ≠ some '0' ∧ (hexU k).head? ≠ some '0') ∧ dec 0 = ['0'] ∧ hexU 0 = ['0']

/-- 40_datapath R50: the sign is always written, `+` for zero, and the rest is `dec` of the magnitude: decimal digits only,
without a leading zero, that read as the magnitude. -/
def Obligations.SignedMagnitude : Prop :=
  ∀ v : Int, (v < 0 → (sm v).head? = some '-') ∧ (0 ≤ v → (sm v).head? = some '+') ∧
    (sm v).tail = dec v.natAbs ∧ (∀ c ∈ (sm v).tail, digitValue c < 10) ∧
    readNumeral 10 (sm v).tail = v.natAbs ∧ (v ≠ 0 → (sm v).tail.head? ≠ some '0') ∧ (v = 0 → sm v = "+0".toList)

/-- 40_datapath R51: the eight register names. -/
def Obligations.RegisterNames : Prop :=
  (List.range 8).map (fun k => reg (BitVec.ofNat 3 k)) =
    ["R0".toList, "R1".toList, "R2".toList, "R3".toList, "R4".toList, "R5".toList, "R6".toList, "R7".toList]

/-! ## Text ports -/

/-- 40_datapath R56: `bin_text` holds 16 characters `1` or `0`, bit 15 first, and reads as the word in base 2. -/
def Obligations.BinaryTextReadsAsTheWord : Prop :=
  ∀ s : State, ∃ t, step s = .next t ∧
    (∀ k : Fin 16, t.out.binText[k] = if t.word.getLsbD (15 - k.val) then 0x31#8 else 0x30#8) ∧
    readNumeral 2 (charsOf t.out.binText.toList) = t.word.toNat

/-- 40_datapath R57: `hex_text` is a lowercase `x` and four uppercase digits, digit `k` being `w[15-4k:12-4k]`, and
reads as the word in base 16. -/
def Obligations.HexTextReadsAsTheWord : Prop :=
  ∀ s : State, ∃ t, step s = .next t ∧ t.out.hexText[0] = 0x78#8 ∧
    (∀ k : Fin 4, t.out.hexText[k.val + 1]? =
      (ascii "0123456789ABCDEF".toList)[t.word.toNat / 16 ^ (3 - k.val) % 16]?) ∧
    readNumeral 16 (charsOf t.out.hexText.toList.tail) = t.word.toNat

/-- 40_datapath R58: `asm_len` is the length of the line, the first `asm_len` characters are the line, the rest 0x00. -/
def Obligations.AssemblyTextPacking : Prop :=
  ∀ s : State, ∃ t, step s = .next t ∧ t.out.asmLen.toNat = (assemblyString t.word).length ∧
    t.out.asmLine = ascii (assemblyString t.word) ∧
    ∀ k : Fin 23, t.out.asmLen.toNat ≤ k.val → t.out.asmText[k] = 0#8

/-- `asm(w) = print(decode(w))` (40_datapath R60, derived there): the dispatch by format on the bits of the word and
the templates per constructor give the same line. -/
def Obligations.LineIsPrintOfTheDecodedTerm : Prop :=
  ∀ w : Word, assemblyString w = print (decode w)

/-- The lengths of the line per format class (40_datapath R61, derived there). -/
def Obligations.LineLengthsByFormat : Prop :=
  ∀ w : Word,
    match formatOf w with
    | .br => (assemblyString w).length = 17 + (dec (sext (bits w 8 0)).natAbs).length ∧ (dec (sext (bits w 8 0)).natAbs).length ∈ [1, 2, 3]
    | .oprReg => (assemblyString w).length = 15
    | .oprImm => (assemblyString w).length = 15 + (dec (sext (bits w 4 0)).natAbs).length ∧ (dec (sext (bits w 4 0)).natAbs).length ∈ [1, 2]
    | .pcrel9 => (assemblyString w).length = 20 + (dec (sext (bits w 8 0)).natAbs).length ∧ (dec (sext (bits w 8 0)).natAbs).length ∈ [1, 2, 3]
    | .baseoff6 => (assemblyString w).length = 15 + (dec (sext (bits w 5 0)).natAbs).length ∧ (dec (sext (bits w 5 0)).natAbs).length ∈ [1, 2]
    | .not2 => (assemblyString w).length = 12
    | .jsrOff11 => (assemblyString w).length = 17 + (dec (sext (bits w 10 0)).natAbs).length ∧ (dec (sext (bits w 10 0)).natAbs).length ∈ [1, 2, 3, 4]
    | .jsrrBase => (assemblyString w).length = 9
    | .trap8 => (assemblyString w).length = 8 + (hexU (bits w 7 0).toNat).length ∧ (hexU (bits w 7 0).toNat).length ∈ [1, 2]
    | .noopnd => (assemblyString w).length = 3
    | .rsvd => (assemblyString w).length = 10

/-- 40_datapath R49: the head of every line but the fixed-text ones is the ROM text padded to 7 characters, for BR
`BR`, three flag positions and two spaces, and the operands start at position 7. The width of the seven label heads is
the spec's decision D4. -/
def Obligations.HeadsAreSevenWide : Prop :=
  ∀ w : Word, formatOf w ≠ .noopnd → formatOf w ≠ .rsvd →
    (assemblyString w).take 7 = (
      if bits w 15 12 = 0#4 then
        "BR".toList ++ [if bit w 11 then 'n' else ' ', if bit w 10 then 'z' else ' ', if bit w 9 then 'p' else ' '] ++ "  ".toList
      else if bits w 15 12 = 1#4 then "ADD    ".toList
      else if bits w 15 12 = 5#4 then "AND    ".toList
      else if bits w 15 12 = 2#4 then "LD     ".toList
      else if bits w 15 12 = 10#4 then "LDI    ".toList
      else if bits w 15 12 = 3#4 then "ST     ".toList
      else if bits w 15 12 = 11#4 then "STI    ".toList
      else if bits w 15 12 = 14#4 then "LEA    ".toList
      else if bits w 15 12 = 6#4 then "LDR    ".toList
      else if bits w 15 12 = 7#4 then "STR    ".toList
      else if bits w 15 12 = 9#4 then "NOT    ".toList
      else if bits w 15 12 = 15#4 then "TRAP   ".toList
      else if bit w 11 then "JSRR   ".toList else "JSR    ".toList) ∧
    ((assemblyString w)[7]? = some 'R' ∨ (assemblyString w)[7]? = some '[' ∨ (assemblyString w)[7]? = some 'x')

/-- 41_br R63: the eight heads of BR, by bits 11:9. The positions of absent letters are the spec's decision D5. -/
def Obligations.BrHeads : Prop :=
  ∀ w : Word, bits w 15 12 = 0#4 →
    (assemblyString w).take 7 =
      match bit w 11, bit w 10, bit w 9 with
      | false, false, false => "BR     ".toList
      | false, false, true => "BR  p  ".toList
      | false, true, false => "BR z   ".toList
      | false, true, true => "BR zp  ".toList
      | true, false, false => "BRn    ".toList
      | true, false, true => "BRn p  ".toList
      | true, true, false => "BRnz   ".toList
      | true, true, true => "BRnzp  ".toList

/-- Separators and ends of a line (40_datapath R54): behind the 7 characters of the head stand the operands of the
format, the first one at once, consecutive ones separated by exactly one space, and the line ends with the last of
them; a fixed-text line is its text alone. No comma, no line break, no trailing space, and never two spaces in a row
behind the head. -/
def Obligations.SeparatorsAreSingleSpaces : Prop :=
  ∀ w : Word,
    (match formatOf w with
      | .br => (assemblyString w).drop 7 = offop (sext (bits w 8 0))
      | .oprReg => (assemblyString w).drop 7 = reg (bits w 11 9) ++ [' '] ++ reg (bits w 8 6) ++ [' '] ++ reg (bits w 2 0)
      | .oprImm =>
        (assemblyString w).drop 7 = reg (bits w 11 9) ++ [' '] ++ reg (bits w 8 6) ++ [' '] ++ immop (sext (bits w 4 0))
      | .pcrel9 => (assemblyString w).drop 7 = reg (bits w 11 9) ++ [' '] ++ offop (sext (bits w 8 0))
      | .baseoff6 =>
        (assemblyString w).drop 7 = reg (bits w 11 9) ++ [' '] ++ reg (bits w 8 6) ++ [' '] ++ immop (sext (bits w 5 0))
      | .not2 => (assemblyString w).drop 7 = reg (bits w 11 9) ++ [' '] ++ reg (bits w 8 6)
      | .jsrOff11 => (assemblyString w).drop 7 = offop (sext (bits w 10 0))
      | .jsrrBase => (assemblyString w).drop 7 = reg (bits w 8 6)
      | .trap8 => (assemblyString w).drop 7 = vectop (bits w 7 0)
      | .noopnd => assemblyString w = if bits w 15 12 = 12#4 then "RET".toList else "RTI".toList
      | .rsvd => assemblyString w = "[RESERVED]".toList) ∧
    ',' ∉ assemblyString w ∧ Char.ofNat 10 ∉ assemblyString w ∧ Char.ofNat 13 ∉ assemblyString w ∧
    (assemblyString w).getLast? ≠ some ' ' ∧
    ∀ k, 7 ≤ k → ¬ ((assemblyString w)[k]? = some ' ' ∧ (assemblyString w)[k + 1]? = some ' ')

/-! ## Router and mnemonic mapper -/

/-- The codes of 30_encoding R39 and the masks of R40: after a step, `fmt` and `fvalid` by the opcode, and for opcodes 1,
5 and 4 by the selector bit (R45). The code numbers are the spec's decision D9. -/
def Obligations.RouterTable : Prop :=
  ∀ s : State, ∃ t, step s = .next t ∧
    (t.out.fmt, t.out.fvalid) =
      (if bits t.word 15 12 = 0#4 then ((0#4, 0x048#9) : BitVec 4 × BitVec 9)
      else if bits t.word 15 12 = 1#4 ∨ bits t.word 15 12 = 5#4 then
        (if bit t.word 5 then (2#4, 0x013#9) else (1#4, 0x007#9))
      else if bits t.word 15 12 = 2#4 ∨ bits t.word 15 12 = 3#4 ∨ bits t.word 15 12 = 10#4 ∨ bits t.word 15 12 = 11#4 ∨
        bits t.word 15 12 = 14#4 then (3#4, 0x041#9)
      else if bits t.word 15 12 = 6#4 ∨ bits t.word 15 12 = 7#4 then (4#4, 0x023#9)
      else if bits t.word 15 12 = 9#4 then (5#4, 0x003#9)
      else if bits t.word 15 12 = 4#4 then (if bit t.word 11 then (7#4, 0x002#9) else (6#4, 0x080#9))
      else if bits t.word 15 12 = 15#4 then (8#4, 0x100#9)
      else if bits t.word 15 12 = 13#4 then (10#4, 0x000#9)
      else (9#4, 0x000#9))

/-- 30_encoding R40, its bit positions and its column "fields used" written out: after a step, bit 0 of `fvalid` is set
exactly for the formats that use R_HI, bit 1 for those that use R_MID, and so on to bit 8 for trapvect8. The model's
`maskBit` and `fieldsUsed`, from which it computes the mask, are that list of positions and that column. -/
def Obligations.MaskBitsAreTheFieldsUsed : Prop :=
  (∀ s : State, ∃ t, step s = .next t ∧
    (t.out.fvalid.getLsbD 0 = true ↔ formatOf t.word ∈ [.oprReg, .oprImm, .pcrel9, .baseoff6, .not2]) ∧
    (t.out.fvalid.getLsbD 1 = true ↔ formatOf t.word ∈ [.oprReg, .oprImm, .baseoff6, .not2, .jsrrBase]) ∧
    (t.out.fvalid.getLsbD 2 = true ↔ formatOf t.word = .oprReg) ∧
    (t.out.fvalid.getLsbD 3 = true ↔ formatOf t.word = .br) ∧
    (t.out.fvalid.getLsbD 4 = true ↔ formatOf t.word = .oprImm) ∧
    (t.out.fvalid.getLsbD 5 = true ↔ formatOf t.word = .baseoff6) ∧
    (t.out.fvalid.getLsbD 6 = true ↔ formatOf t.word ∈ [.br, .pcrel9]) ∧
    (t.out.fvalid.getLsbD 7 = true ↔ formatOf t.word = .jsrOff11) ∧
    (t.out.fvalid.getLsbD 8 = true ↔ formatOf t.word = .trap8)) ∧
  [Field.rHi, .rMid, .rLo, .nzp, .imm5, .offset6, .pcOffset9, .pcOffset11, .trapvect8].map maskBit = [0, 1, 2, 3, 4, 5, 6, 7, 8] ∧
  [Format.br, .oprReg, .oprImm, .pcrel9, .baseoff6, .not2, .jsrOff11, .jsrrBase, .trap8, .noopnd, .rsvd].map fieldsUsed =
    [[.nzp, .pcOffset9], [.rHi, .rMid, .rLo], [.rHi, .rMid, .imm5], [.rHi, .pcOffset9], [.rHi, .rMid, .offset6],
     [.rHi, .rMid], [.pcOffset11], [.rMid], [.trapvect8], [], []] ∧
  ∀ (f : Format) (x : Field), ((fvalidMask f).getLsbD (maskBit x) = true ↔ x ∈ fieldsUsed f)

/-- 30_encoding R33: after a step, `opcode` is bits 15:12 of the word. -/
def Obligations.OpcodeIsTheTopNibble : Prop :=
  ∀ s : State, ∃ t, step s = .next t ∧ t.out.opcode.toNat = t.word.toNat / 4096

/-- 40_datapath R48: after a step, `mnem_id` is 16 for opcode 4 with bit 11 set and the opcode otherwise. -/
def Obligations.MnemonicSelection : Prop :=
  ∀ s : State, ∃ t, step s = .next t ∧
    t.out.mnemId.toNat = if bits t.word 15 12 = 4#4 ∧ bit t.word 11 = true then 16 else (bits t.word 15 12).toNat

/-- The line on the port begins with the ROM's text for the index on the `mnem_id` port (derived: 40_datapath R47, R49,
R55). -/
def Obligations.LineBeginsWithTheRomText : Prop :=
  ∀ s t : State, step s = .next t → ∃ (id : Fin 17) (rest : Text),
    t.out.mnemId.toNat = id.val ∧ t.out.asmLine = ascii (romText id ++ rest)

/-- 40_datapath R47: the 17 entries of the mnemonic ROM. -/
def Obligations.RomContents : Prop :=
  (List.finRange 17).map romText =
    ["BR".toList, "ADD".toList, "LD".toList, "ST".toList, "JSR".toList, "AND".toList, "LDR".toList, "STR".toList,
     "RTI".toList, "NOT".toList, "LDI".toList, "STI".toList, "RET".toList, "[RESERVED]".toList, "LEA".toList,
     "TRAP".toList, "JSRR".toList]

/-- 30_encoding R42: `reserved` exactly for opcode 13, whose line is `[RESERVED]`, with no stop, and with the binary
and hexadecimal renderings of any word. -/
def Obligations.ReservedIsOpcodeThirteen : Prop :=
  ∀ s : State, ∃ t, step s = .next t ∧ (t.out.reserved = true ↔ bits t.word 15 12 = 13#4) ∧
    (bits t.word 15 12 = 13#4 → t.out.asmLine = ascii "[RESERVED]".toList) ∧
    t.out.binText.toList = ascii (binaryString t.word) ∧ t.out.hexText.toList = ascii (hexString t.word)

/-! ## The instructions, one statement per rule of files 41 to 48

Each says, for every word its row's `match` and `mask` take in: what the word decodes to, that executing that
instruction answers a next state, every structured output the rule lists, the assembly line, that the other field ports
carry their slices, and that nothing but output ports changes (no flag, no register, no memory exists to change). -/

/-- 41_br R62 (with the flag positions of R63, the spec's decision D5): BR, all eight flag combinations alike. -/
def Obligations.BrOutputs : Prop :=
  ∀ s : State, s.word &&& 0xF000#16 = 0x0000#16 →
    decode s.word = .br (bit s.word 11) (bit s.word 10) (bit s.word 9) (sext (bits s.word 8 0)) ∧
    (-256 ≤ sext (bits s.word 8 0) ∧ sext (bits s.word 8 0) ≤ 255) ∧
    ∃ t, exec (.br (bit s.word 11) (bit s.word 10) (bit s.word 9) (sext (bits s.word 8 0))) s = .next t ∧
      t.out.opcode = 0#4 ∧ t.out.fmt = 0#4 ∧ t.out.fvalid = 0x048#9 ∧ t.out.mnemId = 0#5 ∧ t.out.reserved = false ∧
      t.out.fN = bit s.word 11 ∧ t.out.fZ = bit s.word 10 ∧ t.out.fP = bit s.word 9 ∧ t.out.sxOff9 = sext16 (bits s.word 8 0) ∧
      t.out.asmLine = ascii ("BR".toList ++ [if bit s.word 11 then 'n' else ' ', if bit s.word 10 then 'z' else ' ', if bit s.word 9 then 'p' else ' '] ++ "  ".toList ++
        "[OFFSET ".toList ++ sm (sext (bits s.word 8 0)) ++ "]".toList) ∧
      t.out.FieldsFrom s.word ∧ t.SameInputs s

/-- 42_add_and R64: ADD, the register form (bit 5 clear, bits 4:3 not read) and the immediate form (bit 5 set). -/
def Obligations.AddOutputs : Prop :=
  (∀ s : State, s.word &&& 0xF020#16 = 0x1000#16 →
    decode s.word = .addR (bits s.word 11 9) (bits s.word 8 6) (bits s.word 2 0) ∧
    ∃ t, exec (.addR (bits s.word 11 9) (bits s.word 8 6) (bits s.word 2 0)) s = .next t ∧
      t.out.opcode = 1#4 ∧ t.out.fmt = 1#4 ∧ t.out.fvalid = 0x007#9 ∧ t.out.mnemId = 1#5 ∧ t.out.reserved = false ∧
      t.out.fR119 = bits s.word 11 9 ∧ t.out.fR86 = bits s.word 8 6 ∧ t.out.fR20 = bits s.word 2 0 ∧ t.out.fB5 = false ∧
      t.out.asmLine = ascii ("ADD    ".toList ++ reg (bits s.word 11 9) ++ " ".toList ++ reg (bits s.word 8 6) ++ " ".toList ++ reg (bits s.word 2 0)) ∧
      t.out.FieldsFrom s.word ∧ t.SameInputs s) ∧
  (∀ s : State, s.word &&& 0xF020#16 = 0x1020#16 →
    decode s.word = .addI (bits s.word 11 9) (bits s.word 8 6) (sext (bits s.word 4 0)) ∧
    (-16 ≤ sext (bits s.word 4 0) ∧ sext (bits s.word 4 0) ≤ 15) ∧
    ∃ t, exec (.addI (bits s.word 11 9) (bits s.word 8 6) (sext (bits s.word 4 0))) s = .next t ∧
      t.out.opcode = 1#4 ∧ t.out.fmt = 2#4 ∧ t.out.fvalid = 0x013#9 ∧ t.out.mnemId = 1#5 ∧ t.out.reserved = false ∧
      t.out.fR119 = bits s.word 11 9 ∧ t.out.fR86 = bits s.word 8 6 ∧ t.out.sxImm5 = sext16 (bits s.word 4 0) ∧ t.out.fB5 = true ∧
      t.out.asmLine = ascii ("ADD    ".toList ++ reg (bits s.word 11 9) ++ " ".toList ++ reg (bits s.word 8 6) ++ " ".toList ++ "#".toList ++ sm (sext (bits s.word 4 0))) ∧
      t.out.FieldsFrom s.word ∧ t.SameInputs s)

/-- 42_add_and R65: AND, the register form (bit 5 clear, bits 4:3 not read) and the immediate form (bit 5 set). -/
def Obligations.AndOutputs : Prop :=
  (∀ s : State, s.word &&& 0xF020#16 = 0x5000#16 →
    decode s.word = .andR (bits s.word 11 9) (bits s.word 8 6) (bits s.word 2 0) ∧
    ∃ t, exec (.andR (bits s.word 11 9) (bits s.word 8 6) (bits s.word 2 0)) s = .next t ∧
      t.out.opcode = 5#4 ∧ t.out.fmt = 1#4 ∧ t.out.fvalid = 0x007#9 ∧ t.out.mnemId = 5#5 ∧ t.out.reserved = false ∧
      t.out.fR119 = bits s.word 11 9 ∧ t.out.fR86 = bits s.word 8 6 ∧ t.out.fR20 = bits s.word 2 0 ∧ t.out.fB5 = false ∧
      t.out.asmLine = ascii ("AND    ".toList ++ reg (bits s.word 11 9) ++ " ".toList ++ reg (bits s.word 8 6) ++ " ".toList ++ reg (bits s.word 2 0)) ∧
      t.out.FieldsFrom s.word ∧ t.SameInputs s) ∧
  (∀ s : State, s.word &&& 0xF020#16 = 0x5020#16 →
    decode s.word = .andI (bits s.word 11 9) (bits s.word 8 6) (sext (bits s.word 4 0)) ∧
    (-16 ≤ sext (bits s.word 4 0) ∧ sext (bits s.word 4 0) ≤ 15) ∧
    ∃ t, exec (.andI (bits s.word 11 9) (bits s.word 8 6) (sext (bits s.word 4 0))) s = .next t ∧
      t.out.opcode = 5#4 ∧ t.out.fmt = 2#4 ∧ t.out.fvalid = 0x013#9 ∧ t.out.mnemId = 5#5 ∧ t.out.reserved = false ∧
      t.out.fR119 = bits s.word 11 9 ∧ t.out.fR86 = bits s.word 8 6 ∧ t.out.sxImm5 = sext16 (bits s.word 4 0) ∧ t.out.fB5 = true ∧
      t.out.asmLine = ascii ("AND    ".toList ++ reg (bits s.word 11 9) ++ " ".toList ++ reg (bits s.word 8 6) ++ " ".toList ++ "#".toList ++ sm (sext (bits s.word 4 0))) ∧
      t.out.FieldsFrom s.word ∧ t.SameInputs s)

/-- 43_pc_relative R66: LD (the width of the head is the spec's decision D4). -/
def Obligations.LdOutputs : Prop :=
  ∀ s : State, s.word &&& 0xF000#16 = 0x2000#16 →
    decode s.word = .ld (bits s.word 11 9) (sext (bits s.word 8 0)) ∧
    (-256 ≤ sext (bits s.word 8 0) ∧ sext (bits s.word 8 0) ≤ 255) ∧
    ∃ t, exec (.ld (bits s.word 11 9) (sext (bits s.word 8 0))) s = .next t ∧
      t.out.opcode = 2#4 ∧ t.out.fmt = 3#4 ∧ t.out.fvalid = 0x041#9 ∧ t.out.mnemId = 2#5 ∧ t.out.reserved = false ∧
      t.out.fR119 = bits s.word 11 9 ∧ t.out.sxOff9 = sext16 (bits s.word 8 0) ∧
      t.out.asmLine = ascii ("LD     ".toList ++ reg (bits s.word 11 9) ++ " ".toList ++ "[OFFSET ".toList ++ sm (sext (bits s.word 8 0)) ++ "]".toList) ∧
      t.out.FieldsFrom s.word ∧ t.SameInputs s

/-- 43_pc_relative R67: LDI (the width of the head is the spec's decision D4). -/
def Obligations.LdiOutputs : Prop :=
  ∀ s : State, s.word &&& 0xF000#16 = 0xA000#16 →
    decode s.word = .ldi (bits s.word 11 9) (sext (bits s.word 8 0)) ∧
    (-256 ≤ sext (bits s.word 8 0) ∧ sext (bits s.word 8 0) ≤ 255) ∧
    ∃ t, exec (.ldi (bits s.word 11 9) (sext (bits s.word 8 0))) s = .next t ∧
      t.out.opcode = 10#4 ∧ t.out.fmt = 3#4 ∧ t.out.fvalid = 0x041#9 ∧ t.out.mnemId = 10#5 ∧ t.out.reserved = false ∧
      t.out.fR119 = bits s.word 11 9 ∧ t.out.sxOff9 = sext16 (bits s.word 8 0) ∧
      t.out.asmLine = ascii ("LDI    ".toList ++ reg (bits s.word 11 9) ++ " ".toList ++ "[OFFSET ".toList ++ sm (sext (bits s.word 8 0)) ++ "]".toList) ∧
      t.out.FieldsFrom s.word ∧ t.SameInputs s

/-- 43_pc_relative R68: ST (the width of the head is the spec's decision D4). -/
def Obligations.StOutputs : Prop :=
  ∀ s : State, s.word &&& 0xF000#16 = 0x3000#16 →
    decode s.word = .st (bits s.word 11 9) (sext (bits s.word 8 0)) ∧
    (-256 ≤ sext (bits s.word 8 0) ∧ sext (bits s.word 8 0) ≤ 255) ∧
    ∃ t, exec (.st (bits s.word 11 9) (sext (bits s.word 8 0))) s = .next t ∧
      t.out.opcode = 3#4 ∧ t.out.fmt = 3#4 ∧ t.out.fvalid = 0x041#9 ∧ t.out.mnemId = 3#5 ∧ t.out.reserved = false ∧
      t.out.fR119 = bits s.word 11 9 ∧ t.out.sxOff9 = sext16 (bits s.word 8 0) ∧
      t.out.asmLine = ascii ("ST     ".toList ++ reg (bits s.word 11 9) ++ " ".toList ++ "[OFFSET ".toList ++ sm (sext (bits s.word 8 0)) ++ "]".toList) ∧
      t.out.FieldsFrom s.word ∧ t.SameInputs s

/-- 43_pc_relative R69: STI (the width of the head is the spec's decision D4). -/
def Obligations.StiOutputs : Prop :=
  ∀ s : State, s.word &&& 0xF000#16 = 0xB000#16 →
    decode s.word = .sti (bits s.word 11 9) (sext (bits s.word 8 0)) ∧
    (-256 ≤ sext (bits s.word 8 0) ∧ sext (bits s.word 8 0) ≤ 255) ∧
    ∃ t, exec (.sti (bits s.word 11 9) (sext (bits s.word 8 0))) s = .next t ∧
      t.out.opcode = 11#4 ∧ t.out.fmt = 3#4 ∧ t.out.fvalid = 0x041#9 ∧ t.out.mnemId = 11#5 ∧ t.out.reserved = false ∧
      t.out.fR119 = bits s.word 11 9 ∧ t.out.sxOff9 = sext16 (bits s.word 8 0) ∧
      t.out.asmLine = ascii ("STI    ".toList ++ reg (bits s.word 11 9) ++ " ".toList ++ "[OFFSET ".toList ++ sm (sext (bits s.word 8 0)) ++ "]".toList) ∧
      t.out.FieldsFrom s.word ∧ t.SameInputs s

/-- 43_pc_relative R70: LEA (the width of the head is the spec's decision D4). -/
def Obligations.LeaOutputs : Prop :=
  ∀ s : State, s.word &&& 0xF000#16 = 0xE000#16 →
    decode s.word = .lea (bits s.word 11 9) (sext (bits s.word 8 0)) ∧
    (-256 ≤ sext (bits s.word 8 0) ∧ sext (bits s.word 8 0) ≤ 255) ∧
    ∃ t, exec (.lea (bits s.word 11 9) (sext (bits s.word 8 0))) s = .next t ∧
      t.out.opcode = 14#4 ∧ t.out.fmt = 3#4 ∧ t.out.fvalid = 0x041#9 ∧ t.out.mnemId = 14#5 ∧ t.out.reserved = false ∧
      t.out.fR119 = bits s.word 11 9 ∧ t.out.sxOff9 = sext16 (bits s.word 8 0) ∧
      t.out.asmLine = ascii ("LEA    ".toList ++ reg (bits s.word 11 9) ++ " ".toList ++ "[OFFSET ".toList ++ sm (sext (bits s.word 8 0)) ++ "]".toList) ∧
      t.out.FieldsFrom s.word ∧ t.SameInputs s

/-- 44_base_offset R71: LDR (the width of the head is the spec's decision D4). -/
def Obligations.LdrOutputs : Prop :=
  ∀ s : State, s.word &&& 0xF000#16 = 0x6000#16 →
    decode s.word = .ldr (bits s.word 11 9) (bits s.word 8 6) (sext (bits s.word 5 0)) ∧
    (-32 ≤ sext (bits s.word 5 0) ∧ sext (bits s.word 5 0) ≤ 31) ∧
    ∃ t, exec (.ldr (bits s.word 11 9) (bits s.word 8 6) (sext (bits s.word 5 0))) s = .next t ∧
      t.out.opcode = 6#4 ∧ t.out.fmt = 4#4 ∧ t.out.fvalid = 0x023#9 ∧ t.out.mnemId = 6#5 ∧ t.out.reserved = false ∧
      t.out.fR119 = bits s.word 11 9 ∧ t.out.fR86 = bits s.word 8 6 ∧ t.out.sxOff6 = sext16 (bits s.word 5 0) ∧
      t.out.asmLine = ascii ("LDR    ".toList ++ reg (bits s.word 11 9) ++ " ".toList ++ reg (bits s.word 8 6) ++ " ".toList ++ "#".toList ++ sm (sext (bits s.word 5 0))) ∧
      t.out.FieldsFrom s.word ∧ t.SameInputs s

/-- 44_base_offset R72: STR (the width of the head is the spec's decision D4). -/
def Obligations.StrOutputs : Prop :=
  ∀ s : State, s.word &&& 0xF000#16 = 0x7000#16 →
    decode s.word = .str (bits s.word 11 9) (bits s.word 8 6) (sext (bits s.word 5 0)) ∧
    (-32 ≤ sext (bits s.word 5 0) ∧ sext (bits s.word 5 0) ≤ 31) ∧
    ∃ t, exec (.str (bits s.word 11 9) (bits s.word 8 6) (sext (bits s.word 5 0))) s = .next t ∧
      t.out.opcode = 7#4 ∧ t.out.fmt = 4#4 ∧ t.out.fvalid = 0x023#9 ∧ t.out.mnemId = 7#5 ∧ t.out.reserved = false ∧
      t.out.fR119 = bits s.word 11 9 ∧ t.out.fR86 = bits s.word 8 6 ∧ t.out.sxOff6 = sext16 (bits s.word 5 0) ∧
      t.out.asmLine = ascii ("STR    ".toList ++ reg (bits s.word 11 9) ++ " ".toList ++ reg (bits s.word 8 6) ++ " ".toList ++ "#".toList ++ sm (sext (bits s.word 5 0))) ∧
      t.out.FieldsFrom s.word ∧ t.SameInputs s

/-- 45_not R73: NOT, bits 5:0 not read. -/
def Obligations.NotOutputs : Prop :=
  ∀ s : State, s.word &&& 0xF000#16 = 0x9000#16 →
    decode s.word = .not (bits s.word 11 9) (bits s.word 8 6) ∧
    ∃ t, exec (.not (bits s.word 11 9) (bits s.word 8 6)) s = .next t ∧
      t.out.opcode = 9#4 ∧ t.out.fmt = 5#4 ∧ t.out.fvalid = 0x003#9 ∧ t.out.mnemId = 9#5 ∧ t.out.reserved = false ∧
      t.out.fR119 = bits s.word 11 9 ∧ t.out.fR86 = bits s.word 8 6 ∧
      t.out.asmLine = ascii ("NOT    ".toList ++ reg (bits s.word 11 9) ++ " ".toList ++ reg (bits s.word 8 6)) ∧
      t.out.FieldsFrom s.word ∧ t.SameInputs s

/-- 46_jsr_jsrr R74: JSR is bit 11 clear (90_conflicts C3); bits 10:9 belong to the offset. -/
def Obligations.JsrOutputs : Prop :=
  ∀ s : State, s.word &&& 0xF800#16 = 0x4000#16 →
    decode s.word = .jsr (sext (bits s.word 10 0)) ∧
    (-1024 ≤ sext (bits s.word 10 0) ∧ sext (bits s.word 10 0) ≤ 1023) ∧
    ∃ t, exec (.jsr (sext (bits s.word 10 0))) s = .next t ∧
      t.out.opcode = 4#4 ∧ t.out.fmt = 6#4 ∧ t.out.fvalid = 0x080#9 ∧ t.out.mnemId = 4#5 ∧ t.out.reserved = false ∧
      t.out.fB11 = false ∧ t.out.sxOff11 = sext16 (bits s.word 10 0) ∧
      t.out.asmLine = ascii ("JSR    ".toList ++ "[OFFSET ".toList ++ sm (sext (bits s.word 10 0)) ++ "]".toList) ∧
      t.out.FieldsFrom s.word ∧ t.SameInputs s

/-- 46_jsr_jsrr R75: JSRR is bit 11 set (90_conflicts C3); bits 10:9 and 5:0 not read. -/
def Obligations.JsrrOutputs : Prop :=
  ∀ s : State, s.word &&& 0xF800#16 = 0x4800#16 →
    decode s.word = .jsrr (bits s.word 8 6) ∧
    ∃ t, exec (.jsrr (bits s.word 8 6)) s = .next t ∧
      t.out.opcode = 4#4 ∧ t.out.fmt = 7#4 ∧ t.out.fvalid = 0x002#9 ∧ t.out.mnemId = 16#5 ∧ t.out.reserved = false ∧
      t.out.fB11 = true ∧ t.out.fR86 = bits s.word 8 6 ∧
      t.out.asmLine = ascii ("JSRR   ".toList ++ reg (bits s.word 8 6)) ∧
      t.out.FieldsFrom s.word ∧ t.SameInputs s

/-- 47_trap R76: TRAP, bits 11:8 not read, the vector in minimal uppercase digits; no trap is taken. -/
def Obligations.TrapOutputs : Prop :=
  ∀ s : State, s.word &&& 0xF000#16 = 0xF000#16 →
    decode s.word = .trap (bits s.word 7 0) ∧
    ∃ t, exec (.trap (bits s.word 7 0)) s = .next t ∧
      t.out.opcode = 15#4 ∧ t.out.fmt = 8#4 ∧ t.out.fvalid = 0x100#9 ∧ t.out.mnemId = 15#5 ∧ t.out.reserved = false ∧
      t.out.zxVect8 = bits s.word 7 0 ∧
      t.out.asmLine = ascii ("TRAP   x".toList ++ hexU (bits s.word 7 0).toNat) ∧
      t.out.FieldsFrom s.word ∧ t.SameInputs s

/-- 48_fixed_text R77: every word of opcode 12 is RET (90_conflicts C5). -/
def Obligations.RetOutputs : Prop :=
  ∀ s : State, s.word &&& 0xF000#16 = 0xC000#16 →
    decode s.word = .ret ∧
    ∃ t, exec (.ret) s = .next t ∧
      t.out.opcode = 12#4 ∧ t.out.fmt = 9#4 ∧ t.out.fvalid = 0x000#9 ∧ t.out.mnemId = 12#5 ∧ t.out.reserved = false ∧
      t.out.asmLine = ascii ("RET".toList) ∧
      t.out.FieldsFrom s.word ∧ t.SameInputs s

/-- 48_fixed_text R78: RTI, in every context, with no privilege check. -/
def Obligations.RtiOutputs : Prop :=
  ∀ s : State, s.word &&& 0xF000#16 = 0x8000#16 →
    decode s.word = .rti ∧
    ∃ t, exec (.rti) s = .next t ∧
      t.out.opcode = 8#4 ∧ t.out.fmt = 9#4 ∧ t.out.fvalid = 0x000#9 ∧ t.out.mnemId = 8#5 ∧ t.out.reserved = false ∧
      t.out.asmLine = ascii ("RTI".toList) ∧
      t.out.FieldsFrom s.word ∧ t.SameInputs s

/-- 48_fixed_text R79: the reserved opcode 13 is a defined output and stops nothing. -/
def Obligations.ReservedOutputs : Prop :=
  ∀ s : State, s.word &&& 0xF000#16 = 0xD000#16 →
    decode s.word = .reserved ∧
    ∃ t, exec (.reserved) s = .next t ∧
      t.out.opcode = 13#4 ∧ t.out.fmt = 10#4 ∧ t.out.fvalid = 0x000#9 ∧ t.out.mnemId = 13#5 ∧ t.out.reserved = true ∧
      t.out.asmLine = ascii ("[RESERVED]".toList) ∧
      t.out.FieldsFrom s.word ∧ t.SameInputs s
end

