-- ==== Sys2Proof/Laws/State.lean ====
section
/-! SUPPORT. One lemma per field per update of the state, each true by unfolding, so that no later proof unfolds a
record update. -/

namespace Sys2Proof.Machine.State

variable (s : State) (w : Word) (op : BitVec 4) (f : Format) (id : Fin 17) (rsv : Bool) (line : Text)

/-! The driver. -/

@[simp] theorem present_nil (h : s.pending = []) : s.present = s := by simp [present, h]
@[simp] theorem present_cons {v : Word} {rest : List Word} (h : s.pending = v :: rest) :
    s.present = { s with word := v, pending := rest } := by simp [present, h]
@[simp] theorem present_word : s.present.word = s.pending.head?.getD s.word := by
  cases h : s.pending <;> simp [present, h]
@[simp] theorem present_pending : s.present.pending = s.pending.tail := by cases h : s.pending <;> simp [present, h]
@[simp] theorem present_out : s.present.out = s.out := by cases h : s.pending <;> simp [present, h]
@[simp] theorem withNextWord_word : (s.withNextWord w).word = s.word := rfl
@[simp] theorem withNextWord_pending : (s.withNextWord w).pending = w :: s.pending := rfl
@[simp] theorem withNextWord_out : (s.withNextWord w).out = s.out := rfl
@[simp] theorem present_withNextWord : (s.withNextWord w).present = { s with word := w } := rfl

/-! All output ports at once. -/

@[simp] theorem deliver_word : (s.deliver op f id rsv line).word = s.word := rfl
@[simp] theorem deliver_pending : (s.deliver op f id rsv line).pending = s.pending := rfl
@[simp] theorem deliver_opcode : (s.deliver op f id rsv line).out.opcode = op := rfl
@[simp] theorem deliver_fmt : (s.deliver op f id rsv line).out.fmt = fmtCode f := rfl
@[simp] theorem deliver_fvalid : (s.deliver op f id rsv line).out.fvalid = fvalidMask f := rfl
@[simp] theorem deliver_mnemId : (s.deliver op f id rsv line).out.mnemId = BitVec.ofNat 5 id.val := rfl
@[simp] theorem deliver_reserved : (s.deliver op f id rsv line).out.reserved = rsv := rfl
@[simp] theorem deliver_fR119 : (s.deliver op f id rsv line).out.fR119 = fieldRHi s.word := rfl
@[simp] theorem deliver_fR86 : (s.deliver op f id rsv line).out.fR86 = fieldRMid s.word := rfl
@[simp] theorem deliver_fR20 : (s.deliver op f id rsv line).out.fR20 = fieldRLo s.word := rfl
@[simp] theorem deliver_fN : (s.deliver op f id rsv line).out.fN = flagN s.word := rfl
@[simp] theorem deliver_fZ : (s.deliver op f id rsv line).out.fZ = flagZ s.word := rfl
@[simp] theorem deliver_fP : (s.deliver op f id rsv line).out.fP = flagP s.word := rfl
@[simp] theorem deliver_fB5 : (s.deliver op f id rsv line).out.fB5 = immSel s.word := rfl
@[simp] theorem deliver_fB11 : (s.deliver op f id rsv line).out.fB11 = jsrSel s.word := rfl
@[simp] theorem deliver_sxImm5 : (s.deliver op f id rsv line).out.sxImm5 = sext16 (fieldImm5 s.word) := rfl
@[simp] theorem deliver_sxOff6 : (s.deliver op f id rsv line).out.sxOff6 = sext16 (fieldOff6 s.word) := rfl
@[simp] theorem deliver_sxOff9 : (s.deliver op f id rsv line).out.sxOff9 = sext16 (fieldOff9 s.word) := rfl
@[simp] theorem deliver_sxOff11 : (s.deliver op f id rsv line).out.sxOff11 = sext16 (fieldOff11 s.word) := rfl
@[simp] theorem deliver_zxVect8 : (s.deliver op f id rsv line).out.zxVect8 = fieldVect8 s.word := rfl
@[simp] theorem deliver_binText : (s.deliver op f id rsv line).out.binText = packText 16 (binaryString s.word) := rfl
@[simp] theorem deliver_hexText : (s.deliver op f id rsv line).out.hexText = packText 5 (hexString s.word) := rfl
@[simp] theorem deliver_asmText : (s.deliver op f id rsv line).out.asmText = packText 23 line := rfl
@[simp] theorem deliver_asmLen : (s.deliver op f id rsv line).out.asmLen = BitVec.ofNat 5 line.length := rfl

end Sys2Proof.Machine.State
end

