-- ==== Sys2Proof/Laws/Text.lean ====
section
/-! SUPPORT. Lengths of numerals, operands and lines, and what a text port holds. -/

namespace Sys2Proof.Machine

@[simp] theorem ascii_nil : ascii [] = [] := rfl
@[simp] theorem ascii_cons (c : Char) (t : Text) : ascii (c :: t) = BitVec.ofNat 8 c.toNat :: ascii t := rfl
@[simp] theorem ascii_append (t u : Text) : ascii (t ++ u) = ascii t ++ ascii u := List.map_append
@[simp] theorem ascii_length (t : Text) : (ascii t).length = t.length := List.length_map _

/-- The positions of a text port: the text's codes, then 0x00 (40_datapath R58). -/
theorem packText_getElem (n : Nat) (t : Text) (k : Nat) (hk : k < n) :
    (packText n t)[k] = (ascii t).getD k 0#8 := by simp [packText]

/-- A text that fills its port is the whole port. -/
theorem packText_toList_of_length {n : Nat} {t : Text} (h : t.length = n) : (packText n t).toList = ascii t := by
  refine List.ext_getElem (by simp [h]) fun k h1 h2 => ?_
  rw [Vector.getElem_toList, packText_getElem, List.getD_eq_getElem?_getD, List.getElem?_eq_getElem h2, Option.getD_some]

/-- A text that fits its port is the port's first characters. -/
theorem take_packText {n : Nat} {t : Text} (h : t.length ≤ n) : (packText n t).toList.take t.length = ascii t := by
  refine List.ext_getElem (by simp [h]) fun k h1 h2 => ?_
  rw [List.getElem_take, Vector.getElem_toList, packText_getElem, List.getD_eq_getElem?_getD,
    List.getElem?_eq_getElem h2, Option.getD_some]

theorem numeral_length_pos {base fuel k : Nat} (h : 0 < fuel) : 0 < (numeral base fuel k).length := by
  obtain ⟨f, rfl⟩ : ∃ f, fuel = f + 1 := ⟨fuel - 1, by omega⟩
  simp only [numeral]
  split <;> simp

/-- A number below the `d + 1`-st power of the base has at most `d + 1` digits. -/
theorem numeral_length_le {base : Nat} (d : Nat) :
    ∀ {fuel k : Nat}, k < base ^ (d + 1) → (numeral base fuel k).length ≤ d + 1 := by
  induction d with
  | zero =>
    intro fuel k hk
    cases fuel with
    | zero => simp [numeral]
    | succ f => simp [numeral, show k < base by simpa using hk]
  | succ d ih =>
    intro fuel k hk
    cases fuel with
    | zero => simp [numeral]
    | succ f =>
      simp only [numeral]
      split
      · simp
      · have : k / base < base ^ (d + 1) := Nat.div_lt_of_lt_mul (by rw [Nat.pow_succ, Nat.mul_comm] at hk; exact hk)
        simpa using ih this

theorem dec_length_le (d : Nat) {k : Nat} (h : k < 10 ^ (d + 1)) : (dec k).length ≤ d + 1 :=
  numeral_length_le d h

theorem hexU_length_le (d : Nat) {k : Nat} (h : k < 16 ^ (d + 1)) : (hexU k).length ≤ d + 1 :=
  numeral_length_le d h

theorem dec_length_pos (k : Nat) : 0 < (dec k).length := numeral_length_pos (Nat.succ_pos k)

theorem hexU_length_pos (k : Nat) : 0 < (hexU k).length := numeral_length_pos (Nat.succ_pos k)

@[simp] theorem sm_length (v : Int) : (sm v).length = (dec v.natAbs).length + 1 := by simp [sm]

@[simp] theorem reg_length (k : Reg) : (reg k).length = 2 := by
  have h1 := dec_length_le 0 (k := k.toNat) (by have := k.isLt; omega)
  have h2 := dec_length_pos k.toNat
  simp [reg]
  omega

theorem bracketed_length (t : Text) : ("[OFFSET ".toList ++ t ++ "]".toList).length = t.length + 9 := by
  rw [List.length_append, List.length_append, show "[OFFSET ".toList.length = 8 by decide,
    show "]".toList.length = 1 by decide]
  omega

@[simp] theorem offop_length (v : Int) : (offop v).length = (dec v.natAbs).length + 10 :=
  (bracketed_length (sm v)).trans (congrArg (· + 9) (sm_length v))

@[simp] theorem immop_length (v : Int) : (immop v).length = (dec v.natAbs).length + 2 := by simp [immop]

@[simp] theorem vectop_length (v : BitVec 8) : (vectop v).length = (hexU v.toNat).length + 1 := by simp [vectop]

@[simp] theorem sep_length : sep.length = 1 := rfl

@[simp] theorem brFlags_length (n z p : Bool) : (brFlags Config.brFlagLayout n z p).length = 3 := rfl

theorem pad7_length {m : Text} (h : m.length ≤ 7) : (pad7 m).length = 7 := by simp [pad7]; omega

theorem labelHead_length {m : Text} (h : m.length ≤ 7) : (labelHead Config.headLayout m).length = 7 := pad7_length h

/-- Every mnemonic but the reserved opcode's fits a head of 7 characters. -/
theorem romText_length_le : ∀ id : Fin 17, id ≠ 13 → (romText id).length ≤ 4 := by
  have h : ∀ id : Fin 17, id = 13 ∨ (romText id).length ≤ 4 := by decide
  exact fun id hid => (h id).resolve_left hid

/-- A magnitude in the range of a field of `width` bits is at most the power of two below the width. -/
theorem natAbs_le_of_fits {width : Nat} {v : Int} (h : fitsSigned width v = true) : v.natAbs ≤ 2 ^ (width - 1) := by
  simp only [fitsSigned, decide_eq_true_eq] at h
  have : ((2 ^ (width - 1) : Nat) : Int) = 2 ^ (width - 1) := by push_cast; rfl
  omega

/-- The line of a well-formed instruction fits its port (40_datapath R61). -/
theorem print_length_le {i : Instr} (h : i.wellFormed = true) : (print i).length ≤ 23 := by
  have hl := fun id (hid : id ≠ 13) => pad7_length (Nat.le_trans (romText_length_le id hid) (by decide))
  have hh := fun id (hid : id ≠ 13) => labelHead_length (Nat.le_trans (romText_length_le id hid) (by decide))
  cases i <;> simp only [Instr.wellFormed] at h
  case br n z p off =>
    have := dec_length_le 2 (k := off.natAbs) (by have := natAbs_le_of_fits h; omega)
    simp [print, brLine, show (romText 0).length = 2 from rfl]
    omega
  case addR => simp [print, oprRegLine, hl 1 (by decide)]
  case andR => simp [print, oprRegLine, hl 5 (by decide)]
  case addI dr sr1 imm =>
    have := dec_length_le 1 (k := imm.natAbs) (by have := natAbs_le_of_fits h; omega)
    simp [print, oprImmLine, hl 1 (by decide)]
    omega
  case andI dr sr1 imm =>
    have := dec_length_le 1 (k := imm.natAbs) (by have := natAbs_le_of_fits h; omega)
    simp [print, oprImmLine, hl 5 (by decide)]
    omega
  case jsr off =>
    have := dec_length_le 3 (k := off.natAbs) (by have := natAbs_le_of_fits h; omega)
    simp [print, jsrLine, hl 4 (by decide)]
    omega
  case jsrr => simp [print, jsrrLine, hl 16 (by decide)]
  case not => simp [print, notLine, hl 9 (by decide)]
  case trap v =>
    have := hexU_length_le 1 (k := v.toNat) (by have := v.isLt; omega)
    simp [print, trapLine, hl 15 (by decide)]
    omega
  case rti | ret | reserved => decide
  case ldr r base off | str r base off =>
    have := dec_length_le 1 (k := off.natAbs) (by have := natAbs_le_of_fits h; omega)
    simp [print, baseOffLine, hh 6 (by decide), hh 7 (by decide)]
    omega
  all_goals
    rename_i r off
    have := dec_length_le 2 (k := off.natAbs) (by have := natAbs_le_of_fits h; omega)
    simp [print, pcRelLine, hh 2 (by decide), hh 3 (by decide), hh 10 (by decide), hh 11 (by decide), hh 14 (by decide)]
    omega

end Sys2Proof.Machine
end

