-- ==== Sys2Proof/Laws/Exec.lean ====
section
/-! SUPPORT. Everything an instruction and a step can do, said once: the prover cites `exec_eq_deliver` and
`step_eq_deliver` and does not unfold a meaning. -/

namespace Sys2Proof.Machine

/-- The opcode of a decoded term (30_encoding R41). -/
def opcodeIn : Instr → BitVec 4
  | .br _ _ _ _ => 0#4
  | .addR _ _ _ => 1#4
  | .addI _ _ _ => 1#4
  | .ld _ _ => 2#4
  | .st _ _ => 3#4
  | .jsr _ => 4#4
  | .jsrr _ => 4#4
  | .andR _ _ _ => 5#4
  | .andI _ _ _ => 5#4
  | .ldr _ _ _ => 6#4
  | .str _ _ _ => 7#4
  | .rti => 8#4
  | .not _ _ => 9#4
  | .ldi _ _ => 10#4
  | .sti _ _ => 11#4
  | .ret => 12#4
  | .reserved => 13#4
  | .lea _ _ => 14#4
  | .trap _ => 15#4

/-- The format of a decoded term (30_encoding R39, column "opcodes"). -/
def formatIn : Instr → Format
  | .br _ _ _ _ => .br
  | .addR _ _ _ | .andR _ _ _ => .oprReg
  | .addI _ _ _ | .andI _ _ _ => .oprImm
  | .ld _ _ | .st _ _ | .ldi _ _ | .sti _ _ | .lea _ _ => .pcrel9
  | .ldr _ _ _ | .str _ _ _ => .baseoff6
  | .not _ _ => .not2
  | .jsr _ => .jsrOff11
  | .jsrr _ => .jsrrBase
  | .trap _ => .trap8
  | .rti | .ret => .noopnd
  | .reserved => .rsvd

/-- The ROM entry of a decoded term (40_datapath R47, column "used for"). -/
def mnemIn : Instr → Fin 17
  | .br _ _ _ _ => 0
  | .addR _ _ _ => 1
  | .addI _ _ _ => 1
  | .ld _ _ => 2
  | .st _ _ => 3
  | .jsr _ => 4
  | .jsrr _ => 16
  | .andR _ _ _ => 5
  | .andI _ _ _ => 5
  | .ldr _ _ _ => 6
  | .str _ _ _ => 7
  | .rti => 8
  | .not _ _ => 9
  | .ldi _ _ => 10
  | .sti _ _ => 11
  | .ret => 12
  | .reserved => 13
  | .lea _ _ => 14
  | .trap _ => 15

/-- Whether a decoded term is the reserved one (30_encoding R42). -/
def reservedIn : Instr → Bool
  | .reserved => true
  | _ => false

/-- Every instruction, in every state, answers a next state: the one that drives its opcode, format, mnemonic,
`reserved` and line. -/
theorem exec_eq_deliver (i : Instr) (s : State) :
    exec i s = .next (s.deliver (opcodeIn i) (formatIn i) (mnemIn i) (reservedIn i) (print i)) := by
  cases i <;> rfl

/-- Every step delivers the outputs of the word the driver presents. -/
theorem step_eq_deliver (s : State) :
    step s = .next (s.present.deliver (opcodeIn (decode s.present.word)) (formatIn (decode s.present.word))
      (mnemIn (decode s.present.word)) (reservedIn (decode s.present.word)) (print (decode s.present.word))) :=
  exec_eq_deliver _ _

/-- A line that fits its port is read off the port whole. -/
theorem asmLine_deliver (s : State) (op : BitVec 4) (f : Format) (id : Fin 17) (rsv : Bool) {line : Text}
    (h : line.length ≤ 23) : (s.deliver op f id rsv line).out.asmLine = ascii line := by
  have hl : line.length % 32 = line.length := Nat.mod_eq_of_lt (by omega)
  simp [Ports.asmLine, hl, take_packText h]

end Sys2Proof.Machine
end

