-- ==== Sys2Proof/Laws/Slicer.lean ====
section
/-! SUPPORT. What the slicer and the sign-extender do, bit by bit and as integers. -/

namespace Sys2Proof.Machine

theorem getLsbD_bits (w : Word) (hi lo k : Nat) (h : lo ≤ hi ∧ hi ≤ 15) :
    (bits w hi lo h).getLsbD k = (decide (k ≤ hi - lo) && w.getLsbD (lo + k)) := by
  simp [bits]

/-- The sign-extender is the two's-complement reading of the field. -/
theorem sext_eq_toInt {n : Nat} (v : BitVec n) (h : 1 ≤ n ∧ n ≤ 16) : sext v h = v.toInt := by
  have hn : 0 < n := by omega
  have hm : v.msb = v.getLsbD (n - 1) := by simp [BitVec.msb_eq_getLsbD_last]
  rw [sext, ← hm, BitVec.toInt_eq_msb_cond]
  split <;> simp

theorem toInt_sext16 {n : Nat} (v : BitVec n) (h : 1 ≤ n ∧ n ≤ 16) : (sext16 v h).toInt = v.toInt := by
  simpa [sext16] using BitVec.toInt_signExtend_of_le h.2

/-- An extended field lies in the range of its width. -/
theorem fitsSigned_sext {n : Nat} (v : BitVec n) (h : 1 ≤ n ∧ n ≤ 16) : fitsSigned n (sext v h) = true := by
  have h1 := BitVec.two_mul_toInt_lt (x := v)
  have h2 := BitVec.le_two_mul_toInt (x := v)
  have hp : (2 : Int) ^ n = 2 * 2 ^ (n - 1) := by
    rw [← Int.pow_succ']
    congr 1
    omega
  simp only [fitsSigned, sext_eq_toInt, decide_eq_true_eq]
  omega

/-- A value in the range of a field is read back from the field that holds it. -/
theorem sext_ofInt {n : Nat} (h : 1 ≤ n ∧ n ≤ 16) {v : Int} (hv : fitsSigned n v = true) :
    sext (BitVec.ofInt n v) h = v := by
  have hp : (2 : Int) ^ n = 2 * 2 ^ (n - 1) := by
    rw [← Int.pow_succ']
    congr 1
    omega
  simp only [fitsSigned, decide_eq_true_eq] at hv
  rw [sext_eq_toInt, BitVec.toInt_ofInt]
  exact Int.bmod_eq_of_le_mul_two (by push_cast; omega) (by push_cast; omega)

/-- The field that holds the extended value of a field is that field. -/
theorem ofInt_sext {n : Nat} (v : BitVec n) (h : 1 ≤ n ∧ n ≤ 16) : BitVec.ofInt n (sext v h) = v := by
  rw [sext_eq_toInt, BitVec.ofInt_toInt]

/-- The opcode is its four bits, most significant first. -/
theorem opcode_eq_iff (w : Word) (k : BitVec 4) :
    bits w 15 12 = k ↔
      bit w 15 = k.getLsbD 3 ∧ bit w 14 = k.getLsbD 2 ∧ bit w 13 = k.getLsbD 1 ∧ bit w 12 = k.getLsbD 0 := by
  constructor
  · rintro rfl
    refine ⟨?_, ?_, ?_, ?_⟩ <;> rw [getLsbD_bits] <;> simp [bit]
  · rintro ⟨h3, h2, h1, h0⟩
    refine BitVec.eq_of_getLsbD_eq fun j hj => ?_
    rw [getLsbD_bits]
    have : j = 0 ∨ j = 1 ∨ j = 2 ∨ j = 3 := by omega
    rcases this with rfl | rfl | rfl | rfl <;> simp_all [bit]

/-- A bit that the mask of a table row takes in is the row's (spec/opcode_table.json). -/
theorem getLsbD_of_mask {w mask m : Word} (h : w &&& mask = m) {k : Nat} (hk : mask.getLsbD k = true) :
    w.getLsbD k = m.getLsbD k := by
  rw [← h, BitVec.getLsbD_and, hk, Bool.and_true]

end Sys2Proof.Machine
end

