-- ==== Sys2Proof/Laws/PerInstr.lean ====
section
/-! SUPPORT. Facts stated for all instructions, one lemma per constructor. -/

namespace Sys2Proof.Laws.TableRow

open Sys2Proof.Machine

/-- The word an instruction is encoded as, whatever its unread bits hold, is one its row's `match` and `mask` take in
(spec/opcode_table.json). -/
def Statement (i : Instr) : Prop := ∀ fill : Word, encodeWith fill i &&& (tableRow i).2 = (tableRow i).1

theorem br (n z p : Bool) (off : Int) : Statement (.br n z p off) := fun fill => by
  refine BitVec.eq_of_getLsbD_eq fun k hk => ?_
  simp only [encodeWith, tableRow, BitVec.getLsbD_and, BitVec.getLsbD_append]
  interval_cases k <;> simp

theorem addR (dr sr1 sr2 : Reg) : Statement (.addR dr sr1 sr2) := fun fill => by
  refine BitVec.eq_of_getLsbD_eq fun k hk => ?_
  simp only [encodeWith, tableRow, BitVec.getLsbD_and, BitVec.getLsbD_append]
  interval_cases k <;> simp

theorem addI (dr sr1 : Reg) (imm : Int) : Statement (.addI dr sr1 imm) := fun fill => by
  refine BitVec.eq_of_getLsbD_eq fun k hk => ?_
  simp only [encodeWith, tableRow, BitVec.getLsbD_and, BitVec.getLsbD_append]
  interval_cases k <;> simp

theorem ld (r : Reg) (off : Int) : Statement (.ld r off) := fun fill => by
  refine BitVec.eq_of_getLsbD_eq fun k hk => ?_
  simp only [encodeWith, tableRow, BitVec.getLsbD_and, BitVec.getLsbD_append]
  interval_cases k <;> simp

theorem st (r : Reg) (off : Int) : Statement (.st r off) := fun fill => by
  refine BitVec.eq_of_getLsbD_eq fun k hk => ?_
  simp only [encodeWith, tableRow, BitVec.getLsbD_and, BitVec.getLsbD_append]
  interval_cases k <;> simp

theorem jsr (off : Int) : Statement (.jsr off) := fun fill => by
  refine BitVec.eq_of_getLsbD_eq fun k hk => ?_
  simp only [encodeWith, tableRow, BitVec.getLsbD_and, BitVec.getLsbD_append]
  interval_cases k <;> simp

theorem jsrr (base : Reg) : Statement (.jsrr base) := fun fill => by
  refine BitVec.eq_of_getLsbD_eq fun k hk => ?_
  simp only [encodeWith, tableRow, BitVec.getLsbD_and, BitVec.getLsbD_append]
  interval_cases k <;> simp

theorem andR (dr sr1 sr2 : Reg) : Statement (.andR dr sr1 sr2) := fun fill => by
  refine BitVec.eq_of_getLsbD_eq fun k hk => ?_
  simp only [encodeWith, tableRow, BitVec.getLsbD_and, BitVec.getLsbD_append]
  interval_cases k <;> simp

theorem andI (dr sr1 : Reg) (imm : Int) : Statement (.andI dr sr1 imm) := fun fill => by
  refine BitVec.eq_of_getLsbD_eq fun k hk => ?_
  simp only [encodeWith, tableRow, BitVec.getLsbD_and, BitVec.getLsbD_append]
  interval_cases k <;> simp

theorem ldr (r base : Reg) (off : Int) : Statement (.ldr r base off) := fun fill => by
  refine BitVec.eq_of_getLsbD_eq fun k hk => ?_
  simp only [encodeWith, tableRow, BitVec.getLsbD_and, BitVec.getLsbD_append]
  interval_cases k <;> simp

theorem str (r base : Reg) (off : Int) : Statement (.str r base off) := fun fill => by
  refine BitVec.eq_of_getLsbD_eq fun k hk => ?_
  simp only [encodeWith, tableRow, BitVec.getLsbD_and, BitVec.getLsbD_append]
  interval_cases k <;> simp

theorem rti : Statement .rti := fun fill => by
  refine BitVec.eq_of_getLsbD_eq fun k hk => ?_
  simp only [encodeWith, tableRow, BitVec.getLsbD_and, BitVec.getLsbD_append]
  interval_cases k <;> simp

theorem not (dr sr : Reg) : Statement (.not dr sr) := fun fill => by
  refine BitVec.eq_of_getLsbD_eq fun k hk => ?_
  simp only [encodeWith, tableRow, BitVec.getLsbD_and, BitVec.getLsbD_append]
  interval_cases k <;> simp

theorem ldi (r : Reg) (off : Int) : Statement (.ldi r off) := fun fill => by
  refine BitVec.eq_of_getLsbD_eq fun k hk => ?_
  simp only [encodeWith, tableRow, BitVec.getLsbD_and, BitVec.getLsbD_append]
  interval_cases k <;> simp

theorem sti (r : Reg) (off : Int) : Statement (.sti r off) := fun fill => by
  refine BitVec.eq_of_getLsbD_eq fun k hk => ?_
  simp only [encodeWith, tableRow, BitVec.getLsbD_and, BitVec.getLsbD_append]
  interval_cases k <;> simp

theorem ret : Statement .ret := fun fill => by
  refine BitVec.eq_of_getLsbD_eq fun k hk => ?_
  simp only [encodeWith, tableRow, BitVec.getLsbD_and, BitVec.getLsbD_append]
  interval_cases k <;> simp

theorem reserved : Statement .reserved := fun fill => by
  refine BitVec.eq_of_getLsbD_eq fun k hk => ?_
  simp only [encodeWith, tableRow, BitVec.getLsbD_and, BitVec.getLsbD_append]
  interval_cases k <;> simp

theorem lea (r : Reg) (off : Int) : Statement (.lea r off) := fun fill => by
  refine BitVec.eq_of_getLsbD_eq fun k hk => ?_
  simp only [encodeWith, tableRow, BitVec.getLsbD_and, BitVec.getLsbD_append]
  interval_cases k <;> simp

theorem trap (v : BitVec 8) : Statement (.trap v) := fun fill => by
  refine BitVec.eq_of_getLsbD_eq fun k hk => ?_
  simp only [encodeWith, tableRow, BitVec.getLsbD_and, BitVec.getLsbD_append]
  interval_cases k <;> simp

end Sys2Proof.Laws.TableRow
end

