-- ==== Sys2Proof/Tests/Slice0.lean ====
section
/-! SUPPORT. The model's own tests. Every expected value is one of the spec's (the source is named in each comment);
none was read off the model. A `test_witness_…` theorem shows that the hypotheses of a statement can be met. -/

namespace Sys2Proof.Tests

open Machine

/-! ## Well-formedness: an ill-formed term for each check (30_encoding R46, the ranges of R38) -/

theorem test_wellFormed_refuses_offset9 :
    [Instr.br true false true 256, .br false false false (-257), .ld 0 256, .ldi 1 (-257), .st 2 256, .sti 3 (-257), .lea 4 256].all
      (fun i => !i.wellFormed) = true := by decide
theorem test_wellFormed_refuses_imm5 :
    [Instr.addI 0 0 16, .addI 0 0 (-17), .andI 0 0 16, .andI 0 0 (-17)].all (fun i => !i.wellFormed) = true := by decide
theorem test_wellFormed_refuses_offset6 :
    [Instr.ldr 0 0 32, .ldr 0 0 (-33), .str 0 0 32, .str 0 0 (-33)].all (fun i => !i.wellFormed) = true := by decide
theorem test_wellFormed_refuses_offset11 :
    [Instr.jsr 1024, .jsr (-1025)].all (fun i => !i.wellFormed) = true := by decide
/-- The ends of every range are in it: witnesses for DecodeUndoesEncode and EveryInstructionCompletes. -/
theorem test_witness_wellFormed :
    [Instr.br true true true (-256), .br false false false 255, .addR 7 7 7, .addI 7 0 (-16), .addI 0 7 15, .ld 7 (-256),
     .st 7 255, .jsr (-1024), .jsr 1023, .jsrr 7, .andR 0 1 2, .andI 7 7 (-16), .ldr 7 7 (-32), .str 0 0 31, .rti,
     .not 7 7, .ldi 0 255, .sti 0 (-256), .ret, .reserved, .lea 7 (-256), .trap 255].all (fun i => i.wellFormed) = true := by
  decide

/-! ## Decoding: one word per constructor, written out bit by bit from 30_encoding R39 -/

theorem test_decode_br : decode 0b0000_1_0_1_000000001#16 = .br true false true 1 := by decide
theorem test_decode_addR : decode 0b0001_000_001_0_11_010#16 = .addR 0 1 2 := by decide
theorem test_decode_addI : decode 0b0001_001_001_1_11111#16 = .addI 1 1 (-1) := by decide
theorem test_decode_ld : decode 0b0010_011_000000011#16 = .ld 3 3 := by decide
theorem test_decode_st : decode 0b0011_011_111111000#16 = .st 3 (-8) := by decide
theorem test_decode_jsr : decode 0b0100_0_10000000000#16 = .jsr (-1024) := by decide
theorem test_decode_jsrr : decode 0b0100_1_11_101_111111#16 = .jsrr 5 := by decide
theorem test_decode_andR : decode 0b0101_011_001_0_00_010#16 = .andR 3 1 2 := by decide
theorem test_decode_andI : decode 0b0101_000_001_1_10000#16 = .andI 0 1 (-16) := by decide
theorem test_decode_ldr : decode 0b0110_010_001_011111#16 = .ldr 2 1 31 := by decide
theorem test_decode_str : decode 0b0111_111_110_100000#16 = .str 7 6 (-32) := by decide
theorem test_decode_rti : decode 0b1000_111111111111#16 = .rti := by decide
theorem test_decode_not : decode 0b1001_001_010_111111#16 = .not 1 2 := by decide
theorem test_decode_ldi : decode 0b1010_010_111000011#16 = .ldi 2 (-61) := by decide
theorem test_decode_sti : decode 0b1011_100_111111010#16 = .sti 4 (-6) := by decide
theorem test_decode_ret : decode 0b1100_000_111_000000#16 = .ret := by decide
theorem test_decode_reserved : decode 0b1101_000100100011#16 = .reserved := by decide
theorem test_decode_lea : decode 0b1110_001_111111110#16 = .lea 1 (-2) := by decide
theorem test_decode_trap : decode 0b1111_1111_00100101#16 = .trap 0x25#8 := by decide

/-- The encoder on words of 95_test_vectors, unread bits from the second argument's word. -/
theorem test_encode :
    encode (.addR 0 1 2) = 0x1042#16 ∧ encodeWith 0x0018#16 (.addR 0 1 2) = 0x105A#16 ∧ encode (.addI 1 1 (-1)) = 0x127F#16 ∧
    encode (.br false false true (-2)) = 0x03FE#16 ∧ encode (.jsr (-1024)) = 0x4400#16 ∧ encode (.jsrr 5) = 0x4940#16 ∧
    encodeWith 0xFFFF#16 (.trap 0x25#8) = 0xFF25#16 ∧ encodeWith 0xD123#16 .reserved = 0xD123#16 := by decide
/-- The table's numbering: bit 0 is the least significant bit of the one word. -/
theorem test_decodeTableWord : decodeTableWord 16 0x7FE0 = some (.str 7 7 (-32)) := by decide

/-! ## Slicer, sign-extender, numerals, layouts -/

/-- 95 L2-SL. -/
theorem test_slicer :
    bits 0xA5C3#16 15 12 = 0xA#4 ∧ bits 0xA5C3#16 11 9 = 2#3 ∧ bits 0xA5C3#16 8 6 = 7#3 ∧ bits 0xA5C3#16 8 0 = 0x1C3#9 ∧
    bits 0xA5C3#16 5 0 = 0x03#6 ∧ bits 0xA5C3#16 0 0 = 1#1 ∧ bits 0xA5C3#16 15 0 = 0xA5C3#16 ∧
    bit 0xA5C3#16 5 = false ∧ bit 0xA5C3#16 7 = true := by decide
/-- 95 L2-SX, the ends of every width and of the primitive's own range; both signs, so also the witnesses of
SignExtension's two first clauses. -/
theorem test_sext :
    sext 0xF#5 = 15 ∧ sext 0x10#5 = -16 ∧ sext 0x20#6 = -32 ∧ sext 0x100#9 = -256 ∧ sext 0xFF#9 = 255 ∧ sext 0x400#11 = -1024 ∧
    sext 0x8000#16 = -32768 ∧ sext 0x7FFF#16 = 32767 ∧ sext 1#1 = -1 ∧ sext 0#1 = 0 := by decide
theorem test_sext16 :
    sext16 0x10#5 = 0xFFF0#16 ∧ sext16 0x1F#6 = 0x001F#16 ∧ sext16 0x100#9 = 0xFF00#16 ∧ sext16 0x3FF#11 = 0x03FF#16 ∧
    sext16 0x400#11 = 0xFC00#16 ∧ sext16 1#1 = 0xFFFF#16 := by decide
/-- 95 L2-SX, last column; 47_trap R76, corner cases. -/
theorem test_numerals :
    sm 0 = "+0".toList ∧ sm 1023 = "+1023".toList ∧ sm (-1024) = "-1024".toList ∧ vectop 0x0F#8 = "xF".toList ∧
    vectop 0x00#8 = "x0".toList ∧ vectop 0x10#8 = "x10".toList := by decide
/-- 92_eei_decisions D4 and D5: the decided layouts and the named alternatives. -/
theorem test_layouts :
    labelHead .col7 "LD".toList = "LD     ".toList ∧ labelHead .literal2 "LD".toList = "LD  ".toList ∧
    brFlags .positional true false true = "n p".toList ∧ brFlags .packed true false true = "np ".toList := by decide
/-- 30_encoding R40, the masks in hexadecimal. -/
theorem test_masks :
    [Format.br, .oprReg, .oprImm, .pcrel9, .baseoff6, .not2, .jsrOff11, .jsrrBase, .trap8, .noopnd, .rsvd].map fvalidMask =
      [0x048#9, 0x007#9, 0x013#9, 0x041#9, 0x023#9, 0x003#9, 0x080#9, 0x002#9, 0x100#9, 0x000#9, 0x000#9] := by decide

/-! ## One step per instruction

`onPort w` is a state whose word is `w` and whose outputs are those of another word. Each theorem shows the row's hypothesis of
the instruction's statement and, after one step, `fmt`, `fvalid`, `mnem_id`, `reserved`, `asm_len` and the line. -/

/-- A small state: the word on the port, and nothing pending. -/
def onPort (w : Word) : State := { State.reset with word := w }

/-- The outputs listed in 95 L2 after one step. -/
def shows (s : State) (fmt fvalid mnem : Nat) (rsv : Bool) (line : String) (len : Nat) : Bool :=
  match step s with
  | .next t => t.out.fmt.toNat == fmt && t.out.fvalid.toNat == fvalid && t.out.mnemId.toNat == mnem &&
      t.out.reserved == rsv && t.out.asmLine == ascii line.toList && t.out.asmLen.toNat == len && t.word == s.word
  | .fault _ => false
  | .refused _ => false

theorem test_br_flags : (onPort 0x0A01#16).word &&& 0xF000#16 = 0x0000#16 ∧
    shows (onPort 0x0A01#16) 0 0x048 0 false "BRn p  [OFFSET +1]" 18 = true := by decide
theorem test_br_most_negative : (onPort 0x0100#16).word &&& 0xF000#16 = 0x0000#16 ∧
    shows (onPort 0x0100#16) 0 0x048 0 false "BR     [OFFSET -256]" 20 = true := by decide
theorem test_addR_unread : (onPort 0x105A#16).word &&& 0xF020#16 = 0x1000#16 ∧
    shows (onPort 0x105A#16) 1 0x007 1 false "ADD    R0 R1 R2" 15 = true := by decide
theorem test_addI : (onPort 0x127F#16).word &&& 0xF020#16 = 0x1020#16 ∧
    shows (onPort 0x127F#16) 2 0x013 1 false "ADD    R1 R1 #-1" 16 = true := by decide
theorem test_andR : (onPort 0x5042#16).word &&& 0xF020#16 = 0x5000#16 ∧
    shows (onPort 0x5042#16) 1 0x007 5 false "AND    R0 R1 R2" 15 = true := by decide
theorem test_andI : (onPort 0x5030#16).word &&& 0xF020#16 = 0x5020#16 ∧
    shows (onPort 0x5030#16) 2 0x013 5 false "AND    R0 R0 #-16" 17 = true := by decide
theorem test_ld : (onPort 0x2100#16).word &&& 0xF000#16 = 0x2000#16 ∧
    shows (onPort 0x2100#16) 3 0x041 2 false "LD     R0 [OFFSET -256]" 23 = true := by decide
theorem test_ldi : (onPort 0xA5C3#16).word &&& 0xF000#16 = 0xA000#16 ∧
    shows (onPort 0xA5C3#16) 3 0x041 10 false "LDI    R2 [OFFSET -61]" 22 = true := by decide
theorem test_st : (onPort 0x31FF#16).word &&& 0xF000#16 = 0x3000#16 ∧
    shows (onPort 0x31FF#16) 3 0x041 3 false "ST     R0 [OFFSET -1]" 21 = true := by decide
theorem test_sti : (onPort 0xBFFF#16).word &&& 0xF000#16 = 0xB000#16 ∧
    shows (onPort 0xBFFF#16) 3 0x041 11 false "STI    R7 [OFFSET -1]" 21 = true := by decide
theorem test_lea : (onPort 0xE3FE#16).word &&& 0xF000#16 = 0xE000#16 ∧
    shows (onPort 0xE3FE#16) 3 0x041 14 false "LEA    R1 [OFFSET -2]" 21 = true := by decide
theorem test_ldr : (onPort 0x6020#16).word &&& 0xF000#16 = 0x6000#16 ∧
    shows (onPort 0x6020#16) 4 0x023 6 false "LDR    R0 R0 #-32" 17 = true := by decide
theorem test_str : (onPort 0x7FDF#16).word &&& 0xF000#16 = 0x7000#16 ∧
    shows (onPort 0x7FDF#16) 4 0x023 7 false "STR    R7 R7 #+31" 17 = true := by decide
theorem test_not_unread : (onPort 0x9000#16).word &&& 0xF000#16 = 0x9000#16 ∧
    shows (onPort 0x9000#16) 5 0x003 9 false "NOT    R0 R0" 12 = true := by decide
theorem test_jsr : (onPort 0x4400#16).word &&& 0xF800#16 = 0x4000#16 ∧
    shows (onPort 0x4400#16) 6 0x080 4 false "JSR    [OFFSET -1024]" 21 = true := by decide
theorem test_jsrr_unread : (onPort 0x4E3F#16).word &&& 0xF800#16 = 0x4800#16 ∧
    shows (onPort 0x4E3F#16) 7 0x002 16 false "JSRR   R0" 9 = true := by decide
theorem test_trap : (onPort 0xF00F#16).word &&& 0xF000#16 = 0xF000#16 ∧
    shows (onPort 0xF00F#16) 8 0x100 15 false "TRAP   xF" 9 = true := by decide
theorem test_trap_unread : (onPort 0xFF25#16).word &&& 0xF000#16 = 0xF000#16 ∧
    shows (onPort 0xFF25#16) 8 0x100 15 false "TRAP   x25" 10 = true := by decide
theorem test_ret : (onPort 0xC1C0#16).word &&& 0xF000#16 = 0xC000#16 ∧
    shows (onPort 0xC1C0#16) 9 0x000 12 false "RET" 3 = true := by decide
theorem test_rti : (onPort 0x8FFF#16).word &&& 0xF000#16 = 0x8000#16 ∧
    shows (onPort 0x8FFF#16) 9 0x000 8 false "RTI" 3 = true := by decide
theorem test_reserved : (onPort 0xD123#16).word &&& 0xF000#16 = 0xD000#16 ∧
    shows (onPort 0xD123#16) 10 0x000 13 true "[RESERVED]" 10 = true := by decide

/-- 95 L2-PORT: every port for 0x03FE, driven whatever the opcode. -/
theorem test_all_ports :
    (match step (State.reset.withFetchWord 16 0x03FE) with
      | .next t => some t.out
      | .fault _ => none
      | .refused _ => none) = some
        { opcode := 0#4, fmt := 0#4, fvalid := 0x048#9, mnemId := 0#5, reserved := false, fR119 := 1#3, fR86 := 7#3,
          fR20 := 6#3, fN := false, fZ := false, fP := true, fB5 := true, fB11 := false, sxImm5 := 0xFFFE#16,
          sxOff6 := 0xFFFE#16, sxOff9 := 0xFFFE#16, sxOff11 := 0x03FE#16, zxVect8 := 0xFE#8,
          binText := packText 16 "0000001111111110".toList, hexText := packText 5 "x03FE".toList,
          asmText := packText 23 "BR  p  [OFFSET -2]".toList, asmLen := 18#5 } := by decide
/-- 40_datapath R58: five 0x00 bytes behind the 18 characters (95 L2-PORT). -/
theorem test_padding : (packText 23 "BR  p  [OFFSET -2]".toList).toList.drop 18 = [0#8, 0#8, 0#8, 0#8, 0#8] := by decide
/-- 95 L2-BIN/HEX. -/
theorem test_raw_renderings :
    (portsOf 0xA5C3#16).binText.toList = ascii "1010010111000011".toList ∧ (portsOf 0x000F#16).hexText.toList = ascii "x000F".toList := by
  decide

/-! ## Witnesses for the remaining hypotheses -/

/-- StepRunsDecodedInstruction: a state with a word pending, and one with none. -/
theorem test_witness_pending :
    (State.reset.withNextWord 0x1042#16).pending = 0x1042#16 :: [] ∧ State.reset.pending = [] := by decide
/-- The word the next step fetches is the one placed. -/
theorem test_withFetchWord : (State.reset.withFetchWord 16 0xF025).present.word = 0xF025#16 := by decide
/-- DecodeByOpcode, one word per clause, at both ends of the opcode's range. -/
theorem test_witness_opcodes :
    (List.range 16).all (fun k => bits (BitVec.ofNat 16 (k * 4096)) 15 12 == BitVec.ofNat 4 k &&
      bits (BitVec.ofNat 16 (k * 4096 + 4095)) 15 12 == BitVec.ofNat 4 k) = true := by decide
/-- UnreadBitsDoNotMatter: 0x9000 and 0x903F (45_not R73), 0x4800 and 0x4E3F (46 R75). -/
theorem test_witness_unread :
    (0x9000#16 ^^^ 0x903F#16) &&& ~~~ unreadMask (formatOf 0x9000#16) = 0#16 ∧
    (0x4800#16 ^^^ 0x4E3F#16) &&& ~~~ unreadMask (formatOf 0x4800#16) = 0#16 := by decide
/-- SettledIsInvariant: a settled state with a next one, by a step and by its own word's instruction. -/
theorem test_witness_settled :
    State.reset.Settled ∧ (∃ t, step State.reset = .next t) ∧ ∃ t, exec (decode State.reset.word) State.reset = .next t :=
  ⟨by decide, ⟨_, step_eq_deliver _⟩, ⟨_, exec_eq_deliver _ _⟩⟩
/-- StepKeepsOutputsLegal and LineBeginsWithTheRomText: a step that answers. -/
theorem test_witness_step : ∃ t, step (onPort 0xD123#16) = .next t := ⟨_, step_eq_deliver _⟩
/-- InstructionsKeepTheWord and SignedPortRanges: an instruction that answers. -/
theorem test_witness_exec : ∃ t, exec (.ldr 7 7 (-1)) (onPort 0x6FFF#16) = .next t := ⟨_, exec_eq_deliver _ _⟩
/-- OutputsDependOnTheWordOnly: one word reaches the port from two different states, and both step. -/
theorem test_witness_same_word :
    State.reset.withNextWord 0x1042#16 ≠ onPort 0x1042#16 ∧
    ∃ t u, step (State.reset.withNextWord 0x1042#16) = .next t ∧ step (onPort 0x1042#16) = .next u ∧ t.word = u.word :=
  ⟨by decide, _, _, step_eq_deliver _, step_eq_deliver _, by decide⟩
/-- RunDeliversEachWord: the third of the words of 95 L3-1. -/
theorem test_witness_run :
    ({ State.reset with pending := [0x5020#16, 0x1025#16, 0x103F#16] } : State).pending[2]? = some 0x103F#16 := by decide
/-- DecodingTwiceIsIdempotent: two steps on one word. -/
theorem test_witness_twice :
    ∃ t u, step { State.reset with pending := [0xD000#16, 0xD000#16] } = .next t ∧ step t = .next u :=
  ⟨_, _, step_eq_deliver _, step_eq_deliver _⟩
/-- SliceIsQuotientAndRemainder and BitTestIsOneBitSlice: the ends of the argument ranges; both outcomes of the test. -/
theorem test_witness_slices :
    (0 ≤ 15 ∧ 15 ≤ 15) ∧ (15 ≤ 15 ∧ 15 ≤ 15) ∧ (0 ≤ 0 ∧ 0 ≤ 15) ∧ bit 0x8000#16 15 = true ∧ bit 0x7FFF#16 15 = false := by decide
/-- SignExtension: the ends of the widths, and each sign. -/
theorem test_witness_widths :
    (1 ≤ 1 ∧ 1 ≤ 16) ∧ (1 ≤ 16 ∧ 16 ≤ 16) ∧ (1#1).getLsbD (1 - 1) = true ∧ (0#1).getLsbD (1 - 1) = false ∧
    (0x8000#16).getLsbD (16 - 1) = true ∧ (0x7FFF#16).getLsbD (16 - 1) = false := by decide
/-- HeadsAreSevenWide and BrHeads: a line with a head, a fixed-text line without one, a BR word. -/
theorem test_witness_heads :
    formatOf 0x2000#16 ≠ .noopnd ∧ formatOf 0x2000#16 ≠ .rsvd ∧ formatOf 0xC000#16 = .noopnd ∧ bits 0x0E00#16 15 12 = 0#4 := by decide
/-- The clauses with a condition of their own: a position behind the line (AssemblyTextPacking), a word of opcode 13
(ReservedIsOpcodeThirteen), each sign and a positive number (SignedMagnitude, NumeralsReadBack). -/
theorem test_witness_clauses :
    State.reset.out.asmLen.toNat ≤ (18 : Fin 23).val ∧ bits 0xDFFF#16 15 12 = 13#4 ∧ (-1024 : Int) < 0 ∧ (0 : Int) ≤ 0 ∧
    (-16 : Int) ≠ 0 ∧ 0 < 10 := by decide

end Sys2Proof.Tests
end

section
/-! Proofs of the statements of 00_scope: no word stops the machine (R5), what a slice is as an integer (R8). -/

namespace Sys2Proof.Machine

/-- Shifting `lo` bits out is the quotient, keeping `hi - lo + 1` of the rest is the remainder (00_scope R8). -/
theorem toNat_bits (w : Word) (hi lo : Nat) (h : lo ≤ hi ∧ hi ≤ 15) :
    (bits w hi lo h).toNat = w.toNat / 2 ^ lo % 2 ^ (hi - lo + 1) := by
  rw [bits, BitVec.extractLsb_toNat, Nat.shiftRight_eq_div_pow]

end Sys2Proof.Machine

namespace Sys2Proof.Certificates

open Sys2Proof.Machine

/-- Settles O12: the laws of `step` and `exec` name the next state. -/
theorem noWordStops : Obligations.NoWordStops := by
  constructor
  · intro s
    exact ⟨_, step_eq_deliver s⟩
  · intro i s
    exact ⟨_, exec_eq_deliver i s⟩

/-- Settles O19, by the law of the slicer. -/
theorem sliceIsQuotientAndRemainder : Obligations.SliceIsQuotientAndRemainder :=
  toNat_bits

end Sys2Proof.Certificates
end

section
/-! Proofs of the statements of 10_state: a step leaves every output the rules' function of the word, so outputs depend
on the word only (R23). The router, the mnemonic mapper and `asm` read the word on their own; each agrees with the
decoded term. -/

namespace Sys2Proof.Machine

/-- `decode` matches on the four bits of the opcode (30_encoding R33, R41). -/
@[simp] theorem opcodeIn_decode (w : Word) : opcodeIn (decode w) = opcodeOf w := by
  refine ((opcode_eq_iff w _).2 ?_).symm
  fun_cases decode w <;> simp [opcodeIn, *]

/-- The router and `decode` branch on the same bits (30_encoding R39, R45). -/
@[simp] theorem formatIn_decode (w : Word) : formatIn (decode w) = formatOf w := by
  fun_cases decode w <;> simp [formatIn, formatOf, *]

/-- The mnemonic mapper reads the opcode, and bit 11 for opcode 4, JSRR and JSR (40_datapath R48). -/
@[simp] theorem mnemIn_decode (w : Word) : mnemIn (decode w) = mnemIdOf w := by
  rw [mnemIdOf, ← opcodeIn_decode]
  fun_cases decode w
  case case6 | case7 => simp [mnemIn, opcodeIn, *]
  all_goals rfl

@[simp] theorem reservedIn_decode (w : Word) : reservedIn (decode w) = reservedOf w := by
  rw [reservedOf, ← opcodeIn_decode]
  cases decode w <;> rfl

/-- The line of the decoded term is the line read straight off the word (40_datapath R60). -/
@[simp] theorem print_decode (w : Word) : print (decode w) = assemblyString w := by
  rw [assemblyString, ← formatIn_decode, ← mnemIn_decode]
  fun_cases decode w <;> rfl

/-- The instruction of the word on the input port drives every output to the rules' function of that word. -/
theorem deliver_decode_settled (s : State) :
    (s.deliver (opcodeIn (decode s.word)) (formatIn (decode s.word)) (mnemIn (decode s.word))
      (reservedIn (decode s.word)) (print (decode s.word))).Settled := by
  rw [opcodeIn_decode, formatIn_decode, mnemIn_decode, reservedIn_decode, print_decode]
  rfl

/-- Whatever the outputs were before it, a step settles them (10_state R22, R23). -/
theorem settled_of_step {s t : State} (h : step s = .next t) : t.Settled := by
  rw [step_eq_deliver] at h
  cases h
  exact deliver_decode_settled s.present

end Sys2Proof.Machine

namespace Sys2Proof.Certificates

open Sys2Proof.Machine

/-- Settles O8: the next state is the one the law of `step` names, and every step settles the outputs. -/
theorem stepSettlesOutputs : Obligations.StepSettlesOutputs := fun s =>
  ⟨_, step_eq_deliver s, settled_of_step (step_eq_deliver s)⟩

/-- Settles O15: both steps end settled, so each side is the rules' function of the shared word. -/
theorem outputsDependOnTheWordOnly : Obligations.OutputsDependOnTheWordOnly := by
  intro s u s' u' hs hu hw
  calc s'.out = portsOf s'.word := settled_of_step hs
    _ = portsOf u'.word := by rw [hw]
    _ = u'.out := (settled_of_step hu).symm

end Sys2Proof.Certificates
end

section
/-! Proofs of the statements of 30_encoding: the opcode and decoding by it (R33, R46), the bit test (R35), the
sign-extender (R36), the reserved opcode (R42). The ports are read off the settled state a step ends in. -/

namespace Sys2Proof.Machine

/-- Every offset and immediate `decode` gives is an extended field, so it is in its range (30_encoding R38, R46). -/
theorem wellFormed_decode (w : Word) : (decode w).wellFormed = true := by
  fun_cases decode w
  -- the terms without an offset or immediate
  case case3 | case6 | case9 | case12 | case13 | case16 | case17 | case19 => rfl
  all_goals exact fitsSigned_sext _ _

/-- Only the reserved term has opcode 13 (30_encoding R42). -/
theorem eq_reserved_of_opcodeIn {i : Instr} (h : opcodeIn i = 13#4) : i = .reserved := by
  cases i
  case reserved => rfl
  all_goals exact absurd h (by simp [opcodeIn])

/-- The extender copies the field's last bit above the field (30_encoding R36). -/
theorem getLsbD_sext16 {n k : Nat} (v : BitVec n) (h : 1 ≤ n ∧ n ≤ 16) (hk : k < 16) :
    (sext16 v h).getLsbD k = if k < n then v.getLsbD k else v.getLsbD (n - 1) := by
  rw [sext16, BitVec.getLsbD_signExtend, BitVec.msb_eq_getLsbD_last]
  simp [hk]

/-- The text port of a settled word holds the whole line of the word (40_datapath R58). `asmLine_deliver` applies,
since the ports other than the line's do not enter. -/
theorem asmLine_portsOf (w : Word) : (portsOf w).asmLine = ascii (assemblyString w) := by
  have h : (assemblyString w).length ≤ 23 := by
    rw [← print_decode]
    exact print_length_le (wellFormed_decode w)
  exact asmLine_deliver ⟨w, [], portsOf w⟩ 0#4 .br 0 false h

theorem binText_portsOf (w : Word) : (portsOf w).binText.toList = ascii (binaryString w) :=
  packText_toList_of_length (by simp [binaryString])

theorem hexText_portsOf (w : Word) : (portsOf w).hexText.toList = ascii (hexString w) :=
  packText_toList_of_length rfl

/-- Every step answers a state whose outputs are the rules' function of its word. -/
theorem exists_step_settled (s : State) : ∃ t, step s = .next t ∧ t.Settled :=
  ⟨_, step_eq_deliver s, settled_of_step (step_eq_deliver s)⟩

end Sys2Proof.Machine

namespace Sys2Proof.Certificates

open Sys2Proof.Machine

/-- Settles O5: the opcode fixes the four bits `decode` matches on. -/
theorem decodeByOpcode : Obligations.DecodeByOpcode := by
  intro w
  refine ⟨wellFormed_decode w, ?_⟩
  simp only [opcode_eq_iff]
  and_intros
  all_goals
    rintro ⟨h15, h14, h13, h12⟩
    unfold decode
    rw [h15, h14, h13, h12]
    rfl

/-- Settles O21, clause by clause. -/
theorem signExtension : Obligations.SignExtension := by
  intro n h v
  refine ⟨fun hv => ?_, fun hv => ?_, fun k hk => getLsbD_sext16 v h hk, ?_⟩
  · simp [sext, hv]
  · simp [sext, hv]
  · exact (toInt_sext16 v h).trans (sext_eq_toInt v h).symm

/-- Settles O37: the settled port is the slice 15:12, and the quotient by 4096 has no more than its four bits. -/
theorem opcodeIsTheTopNibble : Obligations.OpcodeIsTheTopNibble := by
  intro s
  obtain ⟨t, hs, ht⟩ := exists_step_settled s
  refine ⟨t, hs, ?_⟩
  have hw := t.word.isLt
  calc t.out.opcode.toNat = (bits t.word 15 12).toNat := by rw [ht]; rfl
    _ = t.word.toNat / 4096 % 16 := toNat_bits t.word 15 12 _
    _ = t.word.toNat / 4096 := by omega

/-- Settles O41: the outputs are settled, and a word of opcode 13 decodes to the reserved term, whose line is the ROM's
entry alone. -/
theorem reservedIsOpcodeThirteen : Obligations.ReservedIsOpcodeThirteen := by
  intro s
  obtain ⟨t, hs, ht⟩ := exists_step_settled s
  refine ⟨t, hs, ?_⟩
  rw [ht]
  refine ⟨decide_eq_true_iff, fun h13 => ?_, binText_portsOf t.word, hexText_portsOf t.word⟩
  have hd : decode t.word = .reserved := eq_reserved_of_opcodeIn ((opcodeIn_decode t.word).trans h13)
  rw [asmLine_portsOf, ← print_decode, hd]
  rfl

/-- Settles O20: the one-bit slice is the quotient by `2 ^ n` modulo 2, the bit's own value. -/
theorem bitTestIsOneBitSlice : Obligations.BitTestIsOneBitSlice := by
  intro w n h
  rw [toNat_bits, bit, BitVec.getLsbD, Nat.testBit_eq_decide_div_mod_eq, Nat.sub_self]
  simp

end Sys2Proof.Certificates
end

section
/-! Proofs of the statements of 40_datapath: the mnemonic ROM and mapper (R47, R48), heads, signed magnitudes, register
names and separators (R49 to R51, R54), the two raw renderings (R56, R57) and the packing of the line (R58). A numeral
is read back digit by digit; a line is its head and its operands, and the operands are texts without a space joined by
single spaces. -/

namespace Sys2Proof.Machine

/-! Numerals. -/

theorem readNumeral_append_singleton (base : Nat) (t : Text) (c : Char) :
    readNumeral base (t ++ [c]) = readNumeral base t * base + digitValue c := by
  simp [readNumeral]

/-- The digit characters are read back as their digits. -/
theorem digitValue_digitChar {d : Nat} (h : d < 16) : digitValue (digitChar d) = d := by
  have hall : ∀ d : Fin 16, digitValue (digitChar d) = d := by decide
  exact hall ⟨d, h⟩

/-- A numeral with enough fuel reads as its number, since dropping the last digit is dividing by the base. -/
theorem readNumeral_numeral {base : Nat} (h2 : 2 ≤ base) (h16 : base ≤ 16) {fuel k : Nat} (hk : k < fuel) :
    readNumeral base (numeral base fuel k) = k := by
  fun_induction numeral base fuel k
  case case1 => omega
  case case2 k hlt => simp [readNumeral, digitValue_digitChar (Nat.lt_of_lt_of_le hlt h16)]
  case case3 fuel k hge ih =>
    have hdiv : k / base < k := Nat.div_lt_self (by omega) h2
    have hmod : k % base < base := Nat.mod_lt k (by omega)
    rw [readNumeral_append_singleton, ih (by omega), digitValue_digitChar (by omega), Nat.div_add_mod']

/-- The characters of a numeral are digits of its base. -/
theorem digitValue_lt_of_mem_numeral {base : Nat} (h0 : 0 < base) (h16 : base ≤ 16) {fuel k : Nat} {c : Char}
    (hc : c ∈ numeral base fuel k) : digitValue c < base := by
  fun_induction numeral base fuel k
  case case1 => simp at hc
  case case2 k hlt =>
    rw [List.mem_singleton.1 hc, digitValue_digitChar (by omega)]
    exact hlt
  case case3 fuel k hge ih =>
    rcases List.mem_append.1 hc with hinit | hlast
    · exact ih hinit
    · have hmod : k % base < base := Nat.mod_lt k h0
      rw [List.mem_singleton.1 hlast, digitValue_digitChar (by omega)]
      exact hmod

/-- The first digit of a positive number's numeral is not zero: dividing a number by a base it reaches leaves a
positive number. -/
theorem head?_numeral_ne_zero {base : Nat} (h2 : 2 ≤ base) (h16 : base ≤ 16) {fuel k : Nat} (h0 : 0 < k)
    (hk : k < fuel) : (numeral base fuel k).head? ≠ some '0' := by
  fun_induction numeral base fuel k
  case case1 => omega
  case case2 k hlt =>
    intro h
    have hd := digitValue_digitChar (Nat.lt_of_lt_of_le hlt h16)
    rw [Option.some.inj h] at hd
    exact absurd hd (Nat.ne_of_lt h0)
  case case3 fuel k hge ih =>
    have hdiv : k / base < k := Nat.div_lt_self h0 h2
    have hpos : 0 < k / base := Nat.div_pos (by omega) (by omega)
    rw [List.head?_append_of_ne_nil _ (List.ne_nil_of_length_pos (numeral_length_pos (by omega)))]
    exact ih hpos (by omega)

/-- The `n` lowest digits of `x` in a base, most significant first, with leading zeros. -/
def digitsOf (base n x : Nat) : Text := (List.range n).map fun i => digitChar (x / base ^ (n - 1 - i) % base)

theorem digitsOf_succ (base n x : Nat) :
    digitsOf base (n + 1) x = digitsOf base n (x / base) ++ [digitChar (x % base)] := by
  have hdigit : ∀ i ∈ List.range n, digitChar (x / base ^ (n - i) % base) =
      digitChar (x / base / base ^ (n - 1 - i) % base) := by
    intro i hi
    have hi := List.mem_range.1 hi
    rw [Nat.div_div_eq_div_mul, ← Nat.pow_succ', show (n - 1 - i).succ = n - i by omega]
  simp [digitsOf, List.range_succ, List.map_inj_left.2 hdigit]

theorem readNumeral_digitsOf {base : Nat} (h0 : 0 < base) (h16 : base ≤ 16) (n x : Nat) :
    readNumeral base (digitsOf base n x) = x % base ^ n := by
  induction n generalizing x with
  | zero => simp [digitsOf, readNumeral, Nat.mod_one]
  | succ n ih =>
    have hmod : x % base < base := Nat.mod_lt x h0
    rw [digitsOf_succ, readNumeral_append_singleton, ih, digitValue_digitChar (by omega), Nat.pow_succ', Nat.mod_mul]
    ring

theorem digitsOf_getElem? {base n k : Nat} (x : Nat) (hk : k < n) :
    (digitsOf base n x)[k]? = some (digitChar (x / base ^ (n - 1 - k) % base)) := by
  simp [digitsOf, hk]

theorem binaryString_eq_digitsOf (w : Word) : binaryString w = digitsOf 2 16 w.toNat := by
  refine List.map_congr_left fun i hi => ?_
  rw [BitVec.getLsbD, Nat.testBit_eq_decide_div_mod_eq]
  rcases Nat.mod_two_eq_zero_or_one (w.toNat / 2 ^ (15 - i)) with h | h <;> simp [h, digitChar]

theorem hex4_eq_digitsOf (w : Word) : hex4 w = digitsOf 16 4 w.toNat := by
  simp [hex4, digitsOf, toNat_bits, List.range_succ]

theorem digitValue_lt_of_mem_digitsOf {base n x : Nat} (h0 : 0 < base) (h16 : base ≤ 16) {c : Char}
    (hc : c ∈ digitsOf base n x) : digitValue c < base := by
  obtain ⟨i, -, rfl⟩ := List.mem_map.1 hc
  have hmod : x / base ^ (n - 1 - i) % base < base := Nat.mod_lt _ h0
  rw [digitValue_digitChar (by omega)]
  exact hmod

/-! The characters of a line. -/

/-- A printable ASCII character other than the comma: what a line may hold (00_scope R10, 40_datapath R54). -/
def isLineChar (c : Char) : Bool := 0x20 ≤ c.toNat && c.toNat ≤ 0x7E && c != ','

/-- A character of a line that is no space. -/
def isInk (c : Char) : Bool := isLineChar c && c != ' '

theorem isLineChar_of_isInk {c : Char} (h : isInk c = true) : isLineChar c = true := (Bool.and_eq_true_iff.1 h).1

theorem not_isInk_space : isInk ' ' ≠ true := by decide

theorem toNat_lt_of_isLineChar {c : Char} (h : isLineChar c = true) : c.toNat < 256 := by
  simp only [isLineChar, Bool.and_eq_true, decide_eq_true_eq] at h
  omega

theorem isInk_of_digitValue_lt {c : Char} (h : digitValue c < 16) : isInk c = true := by
  have hall : "0123456789ABCDEF".toList.all isInk = true := by decide
  exact List.all_eq_true.1 hall c (List.idxOf_lt_length_iff.1 h)

theorem ascii_digits_getElem? {d : Nat} (h : d < 16) :
    (ascii "0123456789ABCDEF".toList)[d]? = some (BitVec.ofNat 8 (digitChar d).toNat) := by
  have hall : ∀ d : Fin 16,
      (ascii "0123456789ABCDEF".toList)[d.val]? = some (BitVec.ofNat 8 (digitChar d).toNat) := by decide
  exact hall ⟨d, h⟩

/-- Reading the codes of a text back gives the text. -/
theorem charsOf_ascii {t : Text} (h : ∀ c ∈ t, isLineChar c = true) : charsOf (ascii t) = t := by
  rw [charsOf, ascii, List.map_map]
  refine (List.map_congr_left fun c hc => ?_).trans (List.map_id t)
  have hlt : c.toNat % 2 ^ 8 = c.toNat := Nat.mod_eq_of_lt (toNat_lt_of_isLineChar (h c hc))
  rw [Function.comp_apply, BitVec.toNat_ofNat, hlt, Char.ofNat_toNat, id]

theorem charsOf_ascii_digitsOf {base n x : Nat} (h0 : 0 < base) (h16 : base ≤ 16) :
    charsOf (ascii (digitsOf base n x)) = digitsOf base n x :=
  charsOf_ascii fun _ hc =>
    isLineChar_of_isInk (isInk_of_digitValue_lt (Nat.lt_of_lt_of_le (digitValue_lt_of_mem_digitsOf h0 h16 hc) h16))

/-- Texts without a space, joined by single spaces. -/
inductive SingleSpaced : Text → Prop
  | ink {t : Text} (hne : t ≠ []) (h : ∀ c ∈ t, isInk c = true) : SingleSpaced t
  | space {t u : Text} (ht : SingleSpaced t) (hu : SingleSpaced u) : SingleSpaced (t ++ [' '] ++ u)

namespace SingleSpaced

theorem forall_isLineChar {t : Text} (h : SingleSpaced t) : ∀ c ∈ t, isLineChar c = true := by
  induction h with
  | ink hne h => exact fun c hc => isLineChar_of_isInk (h c hc)
  | space ht hu iht ihu =>
    intro c hc
    simp only [List.mem_append, List.mem_singleton] at hc
    obtain (hc | rfl) | hc := hc
    · exact iht c hc
    · decide
    · exact ihu c hc

theorem ne_nil {t : Text} (h : SingleSpaced t) : t ≠ [] := by
  cases h with
  | ink hne h => exact hne
  | space ht hu => simp

theorem head?_ne_space {t : Text} (h : SingleSpaced t) : t.head? ≠ some ' ' := by
  induction h with
  | ink hne h => exact fun hs => not_isInk_space (h _ (List.mem_of_head? hs))
  | space ht hu iht ihu => rwa [List.append_assoc, List.head?_append_of_ne_nil _ ht.ne_nil]

theorem getLast?_ne_space {t : Text} (h : SingleSpaced t) : t.getLast? ≠ some ' ' := by
  induction h with
  | ink hne h => exact fun hs => not_isInk_space (h _ (List.mem_of_getLast? hs))
  | space ht hu iht ihu => rwa [List.getLast?_append_of_ne_nil _ hu.ne_nil]

/-- No two spaces in a row: a space stands only between two texts that neither end nor begin with one. -/
theorem isChain {t : Text} (h : SingleSpaced t) : t.IsChain fun a b => ¬ (a = ' ' ∧ b = ' ') := by
  induction h with
  | ink hne h =>
    refine List.isChain_iff_getElem.2 fun i hi hs => ?_
    exact not_isInk_space (hs.1 ▸ h _ (List.getElem_mem _))
  | space ht hu iht ihu =>
    refine List.IsChain.append (iht.append (List.isChain_singleton _) ?_) ihu ?_
    · rintro a ha b - ⟨rfl, -⟩
      exact ht.getLast?_ne_space ha
    · rintro a - b hb ⟨-, rfl⟩
      exact hu.head?_ne_space hb

theorem not_two_spaces {t : Text} (h : SingleSpaced t) (k : Nat) : ¬ (t[k]? = some ' ' ∧ t[k + 1]? = some ' ') := by
  rintro ⟨h1, h2⟩
  obtain ⟨hk, h1⟩ := List.getElem?_eq_some_iff.1 h1
  obtain ⟨hk', h2⟩ := List.getElem?_eq_some_iff.1 h2
  exact List.isChain_iff_getElem.1 h.isChain k hk' ⟨h1, h2⟩

end SingleSpaced

theorem isInk_of_mem_dec {k : Nat} {c : Char} (hc : c ∈ dec k) : isInk c = true :=
  isInk_of_digitValue_lt (Nat.lt_trans (digitValue_lt_of_mem_numeral (by decide) (by decide) hc) (by decide))

theorem isInk_of_mem_hexU {k : Nat} {c : Char} (hc : c ∈ hexU k) : isInk c = true :=
  isInk_of_digitValue_lt (digitValue_lt_of_mem_numeral (by decide) (by decide) hc)

theorem isInk_of_mem_sm {v : Int} {c : Char} (hc : c ∈ sm v) : isInk c = true := by
  rcases List.mem_cons.1 hc with rfl | hc
  · split <;> decide
  · exact isInk_of_mem_dec hc

theorem singleSpaced_cons {c : Char} {t : Text} (hc : isInk c = true) (ht : ∀ d ∈ t, isInk d = true) :
    SingleSpaced (c :: t) :=
  .ink (List.cons_ne_nil c t) (List.forall_mem_cons.2 ⟨hc, ht⟩)

theorem singleSpaced_reg (k : Reg) : SingleSpaced (reg k) :=
  singleSpaced_cons (by decide) fun _ hc => isInk_of_mem_dec hc

theorem singleSpaced_immop (v : Int) : SingleSpaced (immop v) :=
  singleSpaced_cons (by decide) fun _ hc => isInk_of_mem_sm hc

theorem singleSpaced_vectop (v : BitVec 8) : SingleSpaced (vectop v) :=
  singleSpaced_cons (by decide) fun _ hc => isInk_of_mem_hexU hc

/-- The offset operand holds one space of its own (40_datapath R52). -/
theorem singleSpaced_offop (v : Int) : SingleSpaced (offop v) := by
  have hsplit : offop v = "[OFFSET".toList ++ [' '] ++ (sm v ++ "]".toList) :=
    (List.append_assoc _ _ _).trans
      (congrArg (· ++ (sm v ++ "]".toList)) (show "[OFFSET ".toList = "[OFFSET".toList ++ [' '] by decide))
  have hopen : "[OFFSET".toList.all isInk = true := by decide
  have hclose : "]".toList.all isInk = true := by decide
  rw [hsplit]
  refine .space (.ink (by decide) (List.all_eq_true.1 hopen)) (.ink (List.cons_ne_nil _ _) fun c hc => ?_)
  rcases List.mem_append.1 hc with hc | hc
  · exact isInk_of_mem_sm hc
  · exact List.all_eq_true.1 hclose c hc

/-! Head and operands of a line. -/

/-- What a line begins with: for BR the flag positions, for the fixed-text terms the mnemonic alone, else the mnemonic
padded to 7 characters (40_datapath R49). -/
def headText : Instr → Text
  | .br n z p _ => romText 0 ++ brFlags Config.brFlagLayout n z p ++ "  ".toList
  | .rti => romText 8
  | .ret => romText 12
  | .reserved => romText 13
  | i => pad7 (romText (mnemIn i))

/-- What stands behind the head: the operands with one space between them (40_datapath R54). -/
def operandText : Instr → Text
  | .br _ _ _ off | .jsr off => offop off
  | .addR dr sr1 sr2 | .andR dr sr1 sr2 => reg dr ++ sep ++ reg sr1 ++ sep ++ reg sr2
  | .addI dr sr1 imm | .andI dr sr1 imm => reg dr ++ sep ++ reg sr1 ++ sep ++ immop imm
  | .ld r off | .st r off | .ldi r off | .sti r off | .lea r off => reg r ++ sep ++ offop off
  | .ldr r base off | .str r base off => reg r ++ sep ++ reg base ++ sep ++ immop off
  | .not dr sr => reg dr ++ sep ++ reg sr
  | .jsrr base => reg base
  | .trap v => vectop v
  | .rti | .ret | .reserved => []

/-- Every line is its head and its operands. -/
theorem print_eq_head_operands (i : Instr) : print i = headText i ++ operandText i := by
  cases i
  case br | jsr | jsrr | trap => rfl
  case rti | ret | reserved => exact (List.append_nil _).symm
  all_goals
    simp only [print, oprRegLine, oprImmLine, pcRelLine, baseOffLine, notLine, labelHead, Config.headLayout, headText,
      operandText, mnemIn, List.append_assoc]

/-- The terms whose line is more than a fixed text (40_datapath R49). -/
abbrev HasOperands (i : Instr) : Prop := formatIn i ≠ .noopnd ∧ formatIn i ≠ .rsvd

theorem headText_length {i : Instr} (h : HasOperands i) : (headText i).length = 7 := by
  cases i
  case rti | ret | reserved => exact absurd h (by decide)
  all_goals rfl

theorem operandText_singleSpaced {i : Instr} (h : HasOperands i) : SingleSpaced (operandText i) := by
  cases i
  case rti | ret | reserved => exact absurd h (by decide)
  case br | jsr => exact singleSpaced_offop _
  case addR | andR => exact .space (.space (singleSpaced_reg _) (singleSpaced_reg _)) (singleSpaced_reg _)
  case addI | andI | ldr | str =>
    exact .space (.space (singleSpaced_reg _) (singleSpaced_reg _)) (singleSpaced_immop _)
  case not => exact .space (singleSpaced_reg _) (singleSpaced_reg _)
  case jsrr => exact singleSpaced_reg _
  case trap => exact singleSpaced_vectop _
  all_goals exact .space (singleSpaced_reg _) (singleSpaced_offop _)

/-- An operand begins with the register letter, a bracket, or the vector's `x`. -/
theorem operandText_head? {i : Instr} (h : HasOperands i) :
    (operandText i).head? = some 'R' ∨ (operandText i).head? = some '[' ∨ (operandText i).head? = some 'x' := by
  cases i
  case rti | ret | reserved => exact absurd h (by decide)
  case br | jsr => exact .inr (.inl rfl)
  case trap => exact .inr (.inr rfl)
  all_goals exact .inl rfl

theorem isLineChar_of_mem_headText {i : Instr} {c : Char} (hc : c ∈ headText i) : isLineChar c = true := by
  have hall : (headText i).all isLineChar = true := by
    cases i
    case br n z p off => cases n <;> cases z <;> cases p <;> rfl
    all_goals rfl
  exact List.all_eq_true.1 hall c hc

/-- A fixed-text line holds no space. -/
theorem singleSpaced_print_of_fixed {i : Instr} (h : ¬ HasOperands i) : SingleSpaced (print i) := by
  have hall : (print i).all isInk = true ∧ print i ≠ [] := by
    cases i
    case rti | ret | reserved => decide
    all_goals exact absurd ⟨nofun, nofun⟩ h
  exact .ink hall.2 (List.all_eq_true.1 hall.1)

theorem isLineChar_of_mem_print {i : Instr} {c : Char} (hc : c ∈ print i) : isLineChar c = true := by
  by_cases h : HasOperands i
  · rw [print_eq_head_operands] at hc
    rcases List.mem_append.1 hc with hc | hc
    · exact isLineChar_of_mem_headText hc
    · exact (operandText_singleSpaced h).forall_isLineChar c hc
  · exact (singleSpaced_print_of_fixed h).forall_isLineChar c hc

theorem print_getLast?_ne_space (i : Instr) : (print i).getLast? ≠ some ' ' := by
  by_cases h : HasOperands i
  · have hs := operandText_singleSpaced h
    rw [print_eq_head_operands, List.getLast?_append_of_ne_nil _ hs.ne_nil]
    exact hs.getLast?_ne_space
  · exact (singleSpaced_print_of_fixed h).getLast?_ne_space

theorem print_getElem?_operands {i : Instr} (h : HasOperands i) (k : Nat) :
    (print i)[7 + k]? = (operandText i)[k]? := by
  have hk : (headText i).length ≤ 7 + k := by rw [headText_length h]; omega
  rw [print_eq_head_operands, List.getElem?_append_right hk, headText_length h, Nat.add_sub_cancel_left]

theorem print_not_two_spaces (i : Instr) {k : Nat} (hk : 7 ≤ k) :
    ¬ ((print i)[k]? = some ' ' ∧ (print i)[k + 1]? = some ' ') := by
  by_cases h : HasOperands i
  · obtain ⟨j, rfl⟩ := Nat.exists_eq_add_of_le hk
    rw [Nat.add_assoc, print_getElem?_operands h, print_getElem?_operands h]
    exact (operandText_singleSpaced h).not_two_spaces j
  · exact (singleSpaced_print_of_fixed h).not_two_spaces k

theorem take_print {i : Instr} (h : HasOperands i) : (print i).take 7 = headText i := by
  rw [print_eq_head_operands, List.take_left' (headText_length h)]

theorem drop_print {i : Instr} (h : HasOperands i) : (print i).drop 7 = operandText i := by
  rw [print_eq_head_operands, List.drop_left' (headText_length h)]

/-! Ports. -/

/-- Position `k` of the binary port is bit `15 - k` (40_datapath R56). -/
theorem packText_binaryString_getElem (w : Word) (k : Fin 16) :
    (packText 16 (binaryString w))[k] = if w.getLsbD (15 - k.val) then 0x31#8 else 0x30#8 := by
  refine (packText_getElem 16 _ k.val k.isLt).trans ?_
  rw [List.getD_eq_getElem?_getD, ascii, List.getElem?_map, binaryString, List.getElem?_map,
    List.getElem?_range k.isLt, Option.map_some, Option.map_some, Option.getD_some]
  split <;> rfl

/-- Behind the `x`, position `k` of the hexadecimal port is digit `k` from the left (40_datapath R57). -/
theorem packText_hexString_getElem? (w : Word) (k : Fin 4) :
    (packText 5 (hexString w))[k.val + 1]? =
      (ascii "0123456789ABCDEF".toList)[w.toNat / 16 ^ (3 - k.val) % 16]? := by
  have hd : w.toNat / 16 ^ (3 - k.val) % 16 < 16 := Nat.mod_lt _ (by decide)
  have hport : (packText 5 (hexString w)).toList = ascii (hexString w) := packText_toList_of_length rfl
  rw [← Vector.getElem?_toList, hport, hexString, ascii_cons, List.getElem?_cons_succ, hex4_eq_digitsOf,
    ascii_digits_getElem? hd, ascii, List.getElem?_map, digitsOf_getElem? _ k.isLt]
  rfl

theorem assemblyString_length_le (w : Word) : (assemblyString w).length ≤ 23 := by
  rw [← print_decode]
  exact print_length_le (wellFormed_decode w)

theorem mnemIdOf_val (w : Word) :
    (mnemIdOf w).val = if bits w 15 12 = 4#4 ∧ bit w 11 = true then 16 else (bits w 15 12).toNat :=
  apply_ite Fin.val _ _ _

end Sys2Proof.Machine

namespace Sys2Proof.Certificates

open Sys2Proof.Machine

/-- Settles O25: what stands behind the sign is `dec` of the magnitude, so the facts about numerals apply. -/
theorem signedMagnitude : Obligations.SignedMagnitude := by
  intro v
  refine ⟨fun hneg => ?_, fun hpos => ?_, rfl, fun c hc => ?_, ?_, fun hv => ?_, fun hv => ?_⟩
  · simp [sm, hneg]
  · simp [sm, hpos]
  · exact digitValue_lt_of_mem_numeral (by decide) (by decide) hc
  · exact readNumeral_numeral (by decide) (by decide) (Nat.lt_succ_self _)
  · exact head?_numeral_ne_zero (by decide) (by decide) (Int.natAbs_pos.2 hv) (Nat.lt_succ_self _)
  · subst hv
    decide

/-- Settles O26: the eight names are evaluated. -/
theorem registerNames : Obligations.RegisterNames := by
  unfold Obligations.RegisterNames
  decide

/-- Settles O27: the settled port holds the 16 base-2 digits of the word, and a word is below `2 ^ 16`. -/
theorem binaryTextReadsAsTheWord : Obligations.BinaryTextReadsAsTheWord := by
  intro s
  obtain ⟨t, hs, ht⟩ := exists_step_settled s
  refine ⟨t, hs, ?_⟩
  rw [ht]
  constructor
  · exact packText_binaryString_getElem t.word
  · have hlt : t.word.toNat % 2 ^ 16 = t.word.toNat := Nat.mod_eq_of_lt t.word.isLt
    rw [binText_portsOf, binaryString_eq_digitsOf, charsOf_ascii_digitsOf (by decide) (by decide),
      readNumeral_digitsOf (by decide) (by decide), hlt]

/-- Settles O28: behind the `x` the settled port holds the 4 base-16 digits of the word, and a word is below
`16 ^ 4`. -/
theorem hexTextReadsAsTheWord : Obligations.HexTextReadsAsTheWord := by
  intro s
  obtain ⟨t, hs, ht⟩ := exists_step_settled s
  refine ⟨t, hs, ?_⟩
  rw [ht]
  refine ⟨rfl, packText_hexString_getElem? t.word, ?_⟩
  have hlt : t.word.toNat % 16 ^ 4 = t.word.toNat := Nat.mod_eq_of_lt t.word.isLt
  rw [hexText_portsOf, hexString, ascii_cons, List.tail_cons, hex4_eq_digitsOf,
    charsOf_ascii_digitsOf (by decide) (by decide), readNumeral_digitsOf (by decide) (by decide), hlt]

/-- Settles O29: a line of at most 23 characters has its length on the port, and every position behind it is 0x00. -/
theorem assemblyTextPacking : Obligations.AssemblyTextPacking := by
  intro s
  obtain ⟨t, hs, ht⟩ := exists_step_settled s
  refine ⟨t, hs, ?_⟩
  rw [ht]
  have hlen : (portsOf t.word).asmLen.toNat = (assemblyString t.word).length :=
    Nat.mod_eq_of_lt (Nat.lt_of_le_of_lt (assemblyString_length_le t.word) (by decide))
  refine ⟨hlen, asmLine_portsOf t.word, fun k hk => ?_⟩
  rw [hlen, ← ascii_length] at hk
  exact (packText_getElem 23 _ k.val k.isLt).trans (List.getD_eq_default _ _ hk)

/-- Settles O32: the line is that of the decoded term, whose head is 7 characters wide; the term's opcode picks the
head, and position 7 is the first character of the operands. -/
theorem headsAreSevenWide : Obligations.HeadsAreSevenWide := by
  intro w h1 h2
  rw [← formatIn_decode] at h1 h2
  have h : HasOperands (decode w) := ⟨h1, h2⟩
  have hop : bits w 15 12 = opcodeIn (decode w) := (opcodeIn_decode w).symm
  rw [← print_decode, take_print h, hop]
  refine ⟨?_, ?_⟩
  · revert h1 h2
    fun_cases decode w <;> intro h1 h2
    -- JSRR and JSR: the selector bit picks the head
    case case6 hsel => simp only [show bit w 11 = true from hsel]; rfl
    case case7 hsel => simp only [show bit w 11 = false from Bool.eq_false_of_not_eq_true hsel]; rfl
    -- RTI, RET and the reserved term have no head
    case case12 | case16 => exact absurd rfl h1
    case case17 => exact absurd rfl h2
    all_goals rfl
  · rw [print_getElem?_operands h 0, ← List.head?_eq_getElem?]
    exact operandText_head? h

/-- Settles O34: behind the head stand the operands of the decoded term, which are single-spaced, and every character of
a line is printable and no comma. -/
theorem separatorsAreSingleSpaces : Obligations.SeparatorsAreSingleSpaces := by
  intro w
  have hop : bits w 15 12 = opcodeIn (decode w) := (opcodeIn_decode w).symm
  rw [← print_decode]
  refine ⟨?_, fun hc => ?_, fun hc => ?_, fun hc => ?_, print_getLast?_ne_space _,
    fun k hk => print_not_two_spaces _ hk⟩
  · rw [← formatIn_decode, hop]
    fun_cases decode w
    -- RTI, RET and the reserved term are their text alone
    case case12 | case16 | case17 => rfl
    all_goals exact drop_print ⟨nofun, nofun⟩
  · exact absurd (isLineChar_of_mem_print hc) (by decide)
  · exact absurd (isLineChar_of_mem_print hc) (by decide)
  · exact absurd (isLineChar_of_mem_print hc) (by decide)

/-- Settles O38: the settled port is the mnemonic mapper's answer, which fits 5 bits. -/
theorem mnemonicSelection : Obligations.MnemonicSelection := by
  intro s
  obtain ⟨t, hs, ht⟩ := exists_step_settled s
  refine ⟨t, hs, ?_⟩
  have hlt : (mnemIdOf t.word).val < 2 ^ 5 := Nat.lt_trans (mnemIdOf t.word).isLt (by decide)
  calc t.out.mnemId.toNat = (mnemIdOf t.word).val := by rw [ht]; exact Nat.mod_eq_of_lt hlt
    _ = _ := mnemIdOf_val t.word

/-- Settles O40: the 17 entries are evaluated. -/
theorem romContents : Obligations.RomContents := by
  unfold Obligations.RomContents
  decide

end Sys2Proof.Certificates
end

section
/-! Proofs of the statements of 41_br: BR's eight heads (R63) and its outputs (R62). The laws before them hold for every
row of the opcode table and for every instruction: what a row's mask says of the opcode, the range of an extended field,
and what executing a well-formed instruction puts on the ports. -/

namespace Sys2Proof.Machine

/-- A row whose mask takes in the bits 15:12 fixes the opcode (spec/opcode_table.json). -/
theorem opcode_of_mask {w mask m : Word} (h : w &&& mask = m) (hmask : bits mask 15 12 = 15#4) :
    bits w 15 12 = bits m 15 12 := by
  obtain ⟨h15, h14, h13, h12⟩ := (opcode_eq_iff mask _).1 hmask
  refine (opcode_eq_iff w _).2 ?_
  simp only [getLsbD_bits]
  exact ⟨getLsbD_of_mask h h15, getLsbD_of_mask h h14, getLsbD_of_mask h h13, getLsbD_of_mask h h12⟩

/-- An extended field of `n` bits as an integer (30_encoding R36, R38). -/
theorem sext_bounds {n : Nat} (v : BitVec n) (h : 1 ≤ n ∧ n ≤ 16) :
    -(2 ^ (n - 1)) ≤ sext v h ∧ sext v h < 2 ^ (n - 1) :=
  of_decide_eq_true (fitsSigned_sext v h)

theorem fieldsFrom_deliver (s : State) (op : BitVec 4) (f : Format) (id : Fin 17) (rsv : Bool) (line : Text) :
    (s.deliver op f id rsv line).out.FieldsFrom s.word :=
  ⟨rfl, rfl, rfl, rfl, rfl, rfl, rfl, rfl, rfl, rfl, rfl, rfl, rfl, binText_portsOf s.word, hexText_portsOf s.word⟩

/-- A well-formed instruction drives the ports of its own opcode, format, mnemonic and line; the other field ports carry
the slices of the word on the input port, and the inputs stay. -/
theorem exec_outputs {i : Instr} (h : i.wellFormed = true) (s : State) :
    ∃ t, exec i s = .next t ∧ t.out.opcode = opcodeIn i ∧ t.out.fmt = fmtCode (formatIn i) ∧
      t.out.fvalid = fvalidMask (formatIn i) ∧ t.out.mnemId = BitVec.ofNat 5 (mnemIn i).val ∧
      t.out.reserved = reservedIn i ∧ t.out.asmLine = ascii (print i) ∧ t.out.FieldsFrom s.word ∧ t.SameInputs s :=
  ⟨_, exec_eq_deliver i s, rfl, rfl, rfl, rfl, rfl, asmLine_deliver _ _ _ _ _ (print_length_le h),
    fieldsFrom_deliver _ _ _ _ _ _, rfl, rfl⟩

/-- A word of opcode 0 is BR, its flags the bits 11:9 and its offset the bits 8:0 (30_encoding R46). -/
theorem decode_eq_br {w : Word} (h : bits w 15 12 = 0#4) :
    decode w = .br (bit w 11) (bit w 10) (bit w 9) (sext (bits w 8 0)) := by
  obtain ⟨-, hbr, -⟩ := Certificates.decodeByOpcode w
  exact hbr h

/-- The line of BR: each letter or a space in its own position, two spaces, the offset (41_br R62). -/
theorem print_br (n z p : Bool) (off : Int) :
    print (.br n z p off) = "BR".toList ++
      [if n then 'n' else ' ', if z then 'z' else ' ', if p then 'p' else ' '] ++ "  ".toList ++
      "[OFFSET ".toList ++ sm off ++ "]".toList := by
  simp only [List.append_assoc]
  rfl

end Sys2Proof.Machine

namespace Sys2Proof.Certificates

open Sys2Proof.Machine

/-- Settles O42: the row's mask fixes the opcode, so the word decodes to BR, and BR's outputs are those of a well-formed
instruction. -/
theorem brOutputs : Obligations.BrOutputs := by
  intro s hrow
  have hdec := decode_eq_br (opcode_of_mask hrow (by decide))
  obtain ⟨hlo, hhi⟩ := sext_bounds (bits s.word 8 0) (by decide)
  obtain ⟨t, hexec, hop, hfmt, hfv, hid, hrsv, hline, hfields, hsame⟩ :=
    exec_outputs (i := .br (bit s.word 11) (bit s.word 10) (bit s.word 9) (sext (bits s.word 8 0)))
      (fitsSigned_sext _ _) s
  have ⟨_, _, _, hN, hZ, hP, _, _, _, _, hoff, _⟩ := hfields
  rw [print_br] at hline
  exact ⟨hdec, ⟨hlo, Int.lt_add_one_iff.1 hhi⟩, t, hexec, hop, hfmt, hfv, hid, hrsv, hN, hZ, hP, hoff, hline, hfields,
    hsame⟩

/-- Settles O33: the word decodes to BR, whose head is the flag positions between `BR` and two spaces; the eight
combinations of flags are the eight rows of the table. -/
theorem brHeads : Obligations.BrHeads := by
  intro w hop
  have hbr := decode_eq_br hop
  have hhead : (assemblyString w).take 7 = headText (decode w) := by
    rw [← print_decode]
    exact take_print (hbr ▸ ⟨nofun, nofun⟩)
  rw [hhead, hbr]
  cases bit w 11 <;> cases bit w 10 <;> cases bit w 9 <;> rfl

end Sys2Proof.Certificates
end

section
/-! Proofs of the statements of 42_add_and: ADD (R64) and AND (R65). The laws before them hold for every word of the
three-register format and of the immediate format, so that each row is left with its decoding and its head. -/

namespace Sys2Proof.Machine

/-- A word of opcode 1 is ADD, the form by bit 5 (30_encoding R45, R46). -/
theorem decode_eq_add {w : Word} (h : bits w 15 12 = 1#4) :
    decode w = if bit w 5 then .addI (bits w 11 9) (bits w 8 6) (sext (bits w 4 0))
      else .addR (bits w 11 9) (bits w 8 6) (bits w 2 0) := by
  obtain ⟨-, -, hadd, -⟩ := Certificates.decodeByOpcode w
  exact hadd h

/-- A word of opcode 5 is AND, the form by bit 5 (30_encoding R45, R46). -/
theorem decode_eq_and {w : Word} (h : bits w 15 12 = 5#4) :
    decode w = if bit w 5 then .andI (bits w 11 9) (bits w 8 6) (sext (bits w 4 0))
      else .andR (bits w 11 9) (bits w 8 6) (bits w 2 0) := by
  obtain ⟨-, -, -, hand, -⟩ := Certificates.decodeByOpcode w
  exact hand h

theorem print_decode_of_oprReg {w : Word} (h : formatIn (decode w) = .oprReg) :
    print (decode w) = pad7 (romText (mnemIn (decode w))) ++ reg (bits w 11 9) ++ " ".toList ++ reg (bits w 8 6) ++
      " ".toList ++ reg (bits w 2 0) := by
  rw [formatIn_decode] at h
  simp only [print_decode, mnemIn_decode, assemblyString, h]

theorem print_decode_of_oprImm {w : Word} (h : formatIn (decode w) = .oprImm) :
    print (decode w) = pad7 (romText (mnemIn (decode w))) ++ reg (bits w 11 9) ++ " ".toList ++ reg (bits w 8 6) ++
      " ".toList ++ "#".toList ++ sm (sext (bits w 4 0)) := by
  rw [formatIn_decode] at h
  simp only [print_decode, mnemIn_decode, assemblyString, h, List.append_assoc]
  rfl

/-- What the register forms of ADD and AND have in common (42_add_and R64, R65). -/
theorem exec_oprReg_outputs {i : Instr} {s : State} {head : Text} (hdec : decode s.word = i)
    (hfmt : formatIn i = .oprReg) (hhead : pad7 (romText (mnemIn i)) = head) (h5 : bit s.word 5 = false) :
    ∃ t, exec i s = .next t ∧ t.out.opcode = opcodeIn i ∧ t.out.fmt = 1#4 ∧ t.out.fvalid = 0x007#9 ∧
      t.out.mnemId = BitVec.ofNat 5 (mnemIn i).val ∧ t.out.reserved = reservedIn i ∧
      t.out.fR119 = bits s.word 11 9 ∧ t.out.fR86 = bits s.word 8 6 ∧ t.out.fR20 = bits s.word 2 0 ∧
      t.out.fB5 = false ∧
      t.out.asmLine = ascii (head ++ reg (bits s.word 11 9) ++ " ".toList ++ reg (bits s.word 8 6) ++ " ".toList ++
        reg (bits s.word 2 0)) ∧
      t.out.FieldsFrom s.word ∧ t.SameInputs s := by
  subst hdec hhead
  obtain ⟨t, hexec, hop, hf, hfv, hid, hrsv, hline, hfields, hsame⟩ := exec_outputs (wellFormed_decode s.word) s
  rw [hfmt] at hf hfv
  rw [print_decode_of_oprReg hfmt] at hline
  have ⟨hDR, hSR1, hSR2, _, _, _, hB5, _⟩ := hfields
  exact ⟨t, hexec, hop, hf, hfv, hid, hrsv, hDR, hSR1, hSR2, hB5.trans h5, hline, hfields, hsame⟩

/-- What the immediate forms of ADD and AND have in common (42_add_and R64, R65). -/
theorem exec_oprImm_outputs {i : Instr} {s : State} {head : Text} (hdec : decode s.word = i)
    (hfmt : formatIn i = .oprImm) (hhead : pad7 (romText (mnemIn i)) = head) (h5 : bit s.word 5 = true) :
    ∃ t, exec i s = .next t ∧ t.out.opcode = opcodeIn i ∧ t.out.fmt = 2#4 ∧ t.out.fvalid = 0x013#9 ∧
      t.out.mnemId = BitVec.ofNat 5 (mnemIn i).val ∧ t.out.reserved = reservedIn i ∧
      t.out.fR119 = bits s.word 11 9 ∧ t.out.fR86 = bits s.word 8 6 ∧ t.out.sxImm5 = sext16 (bits s.word 4 0) ∧
      t.out.fB5 = true ∧
      t.out.asmLine = ascii (head ++ reg (bits s.word 11 9) ++ " ".toList ++ reg (bits s.word 8 6) ++ " ".toList ++
        "#".toList ++ sm (sext (bits s.word 4 0))) ∧
      t.out.FieldsFrom s.word ∧ t.SameInputs s := by
  subst hdec hhead
  obtain ⟨t, hexec, hop, hf, hfv, hid, hrsv, hline, hfields, hsame⟩ := exec_outputs (wellFormed_decode s.word) s
  rw [hfmt] at hf hfv
  rw [print_decode_of_oprImm hfmt] at hline
  have ⟨hDR, hSR1, _, _, _, _, hB5, _, himm, _⟩ := hfields
  exact ⟨t, hexec, hop, hf, hfv, hid, hrsv, hDR, hSR1, himm, hB5.trans h5, hline, hfields, hsame⟩

theorem sext_imm5_range (v : BitVec 5) : -16 ≤ sext v ∧ sext v ≤ 15 :=
  (sext_bounds v (by decide)).imp_right Int.lt_add_one_iff.1

end Sys2Proof.Machine

namespace Sys2Proof.Certificates

open Sys2Proof.Machine

/-- Settles O43: the row's mask fixes the opcode and bit 5, which pick the form of ADD; the outputs are those of the
form's format. -/
theorem addOutputs : Obligations.AddOutputs := by
  refine ⟨fun s hrow => ?_, fun s hrow => ?_⟩
  · have h5 : bit s.word 5 = false := getLsbD_of_mask hrow (by decide)
    have hdec := decode_eq_add (opcode_of_mask hrow (by decide))
    rw [h5] at hdec
    exact ⟨hdec, exec_oprReg_outputs hdec rfl rfl h5⟩
  · have h5 : bit s.word 5 = true := getLsbD_of_mask hrow (by decide)
    have hdec := decode_eq_add (opcode_of_mask hrow (by decide))
    rw [h5] at hdec
    exact ⟨hdec, sext_imm5_range _, exec_oprImm_outputs hdec rfl rfl h5⟩

/-- Settles O44: the row's mask fixes the opcode and bit 5, which pick the form of AND; the outputs are those of the
form's format. -/
theorem andOutputs : Obligations.AndOutputs := by
  refine ⟨fun s hrow => ?_, fun s hrow => ?_⟩
  · have h5 : bit s.word 5 = false := getLsbD_of_mask hrow (by decide)
    have hdec := decode_eq_and (opcode_of_mask hrow (by decide))
    rw [h5] at hdec
    exact ⟨hdec, exec_oprReg_outputs hdec rfl rfl h5⟩
  · have h5 : bit s.word 5 = true := getLsbD_of_mask hrow (by decide)
    have hdec := decode_eq_and (opcode_of_mask hrow (by decide))
    rw [h5] at hdec
    exact ⟨hdec, sext_imm5_range _, exec_oprImm_outputs hdec rfl rfl h5⟩

end Sys2Proof.Certificates
end

section
/-! Proofs of the statements of 43_pc_relative: LD (R66), LDI (R67), ST (R68), STI (R69) and LEA (R70). The laws before
them hold for every word of the PC-relative format, so that each row is left with its decoding and its head. -/

namespace Sys2Proof.Machine

theorem sext_off9_range (v : BitVec 9) : -256 ≤ sext v ∧ sext v ≤ 255 :=
  (sext_bounds v (by decide)).imp_right Int.lt_add_one_iff.1

theorem print_decode_of_pcrel9 {w : Word} (h : formatIn (decode w) = .pcrel9) :
    print (decode w) = labelHead Config.headLayout (romText (mnemIn (decode w))) ++ reg (bits w 11 9) ++ " ".toList ++
      "[OFFSET ".toList ++ sm (sext (bits w 8 0)) ++ "]".toList := by
  rw [formatIn_decode] at h
  simp only [print_decode, mnemIn_decode, assemblyString, h, List.append_assoc]
  rfl

/-- What LD, LDI, ST, STI and LEA have in common (43_pc_relative R66 to R70). -/
theorem exec_pcrel9_outputs {i : Instr} {s : State} {head : Text} (hdec : decode s.word = i)
    (hfmt : formatIn i = .pcrel9) (hhead : labelHead Config.headLayout (romText (mnemIn i)) = head) :
    ∃ t, exec i s = .next t ∧ t.out.opcode = opcodeIn i ∧ t.out.fmt = 3#4 ∧ t.out.fvalid = 0x041#9 ∧
      t.out.mnemId = BitVec.ofNat 5 (mnemIn i).val ∧ t.out.reserved = reservedIn i ∧
      t.out.fR119 = bits s.word 11 9 ∧ t.out.sxOff9 = sext16 (bits s.word 8 0) ∧
      t.out.asmLine = ascii (head ++ reg (bits s.word 11 9) ++ " ".toList ++ "[OFFSET ".toList ++
        sm (sext (bits s.word 8 0)) ++ "]".toList) ∧
      t.out.FieldsFrom s.word ∧ t.SameInputs s := by
  subst hdec hhead
  obtain ⟨t, hexec, hop, hf, hfv, hid, hrsv, hline, hfields, hsame⟩ := exec_outputs (wellFormed_decode s.word) s
  rw [hfmt] at hf hfv
  rw [print_decode_of_pcrel9 hfmt] at hline
  have ⟨hR, _, _, _, _, _, _, _, _, _, hoff, _⟩ := hfields
  exact ⟨t, hexec, hop, hf, hfv, hid, hrsv, hR, hoff, hline, hfields, hsame⟩

end Sys2Proof.Machine

namespace Sys2Proof.Certificates

open Sys2Proof.Machine

/-- Settles O45: the row's mask fixes opcode 2, so the word decodes to LD; the outputs are those of its format. -/
theorem ldOutputs : Obligations.LdOutputs := by
  intro s hrow
  obtain ⟨-, -, -, -, hld, -⟩ := decodeByOpcode s.word
  have hdec := hld (opcode_of_mask hrow (by decide))
  exact ⟨hdec, sext_off9_range _, exec_pcrel9_outputs hdec rfl rfl⟩

/-- Settles O46: the row's mask fixes opcode 10, so the word decodes to LDI; the outputs are those of its format. -/
theorem ldiOutputs : Obligations.LdiOutputs := by
  intro s hrow
  obtain ⟨-, -, -, -, -, hldi, -⟩ := decodeByOpcode s.word
  have hdec := hldi (opcode_of_mask hrow (by decide))
  exact ⟨hdec, sext_off9_range _, exec_pcrel9_outputs hdec rfl rfl⟩

/-- Settles O47: the row's mask fixes opcode 3, so the word decodes to ST; the outputs are those of its format. -/
theorem stOutputs : Obligations.StOutputs := by
  intro s hrow
  obtain ⟨-, -, -, -, -, -, hst, -⟩ := decodeByOpcode s.word
  have hdec := hst (opcode_of_mask hrow (by decide))
  exact ⟨hdec, sext_off9_range _, exec_pcrel9_outputs hdec rfl rfl⟩

/-- Settles O48: the row's mask fixes opcode 11, so the word decodes to STI; the outputs are those of its format. -/
theorem stiOutputs : Obligations.StiOutputs := by
  intro s hrow
  obtain ⟨-, -, -, -, -, -, -, hsti, -⟩ := decodeByOpcode s.word
  have hdec := hsti (opcode_of_mask hrow (by decide))
  exact ⟨hdec, sext_off9_range _, exec_pcrel9_outputs hdec rfl rfl⟩

/-- Settles O49: the row's mask fixes opcode 14, so the word decodes to LEA; the outputs are those of its format. -/
theorem leaOutputs : Obligations.LeaOutputs := by
  intro s hrow
  obtain ⟨-, -, -, -, -, -, -, -, hlea, -⟩ := decodeByOpcode s.word
  have hdec := hlea (opcode_of_mask hrow (by decide))
  exact ⟨hdec, sext_off9_range _, exec_pcrel9_outputs hdec rfl rfl⟩

end Sys2Proof.Certificates
end

section
/-! Proofs of the statements of 44_base_offset: LDR (R71) and STR (R72). The laws before them hold for every word of the
base-and-offset format, so that each row is left with its decoding and its head. -/

namespace Sys2Proof.Machine

theorem sext_off6_range (v : BitVec 6) : -32 ≤ sext v ∧ sext v ≤ 31 :=
  (sext_bounds v (by decide)).imp_right Int.lt_add_one_iff.1

theorem print_decode_of_baseoff6 {w : Word} (h : formatIn (decode w) = .baseoff6) :
    print (decode w) = labelHead Config.headLayout (romText (mnemIn (decode w))) ++ reg (bits w 11 9) ++ " ".toList ++
      reg (bits w 8 6) ++ " ".toList ++ "#".toList ++ sm (sext (bits w 5 0)) := by
  rw [formatIn_decode] at h
  simp only [print_decode, mnemIn_decode, assemblyString, h, List.append_assoc]
  rfl

/-- What LDR and STR have in common (44_base_offset R71, R72). -/
theorem exec_baseoff6_outputs {i : Instr} {s : State} {head : Text} (hdec : decode s.word = i)
    (hfmt : formatIn i = .baseoff6) (hhead : labelHead Config.headLayout (romText (mnemIn i)) = head) :
    ∃ t, exec i s = .next t ∧ t.out.opcode = opcodeIn i ∧ t.out.fmt = 4#4 ∧ t.out.fvalid = 0x023#9 ∧
      t.out.mnemId = BitVec.ofNat 5 (mnemIn i).val ∧ t.out.reserved = reservedIn i ∧
      t.out.fR119 = bits s.word 11 9 ∧ t.out.fR86 = bits s.word 8 6 ∧ t.out.sxOff6 = sext16 (bits s.word 5 0) ∧
      t.out.asmLine = ascii (head ++ reg (bits s.word 11 9) ++ " ".toList ++ reg (bits s.word 8 6) ++ " ".toList ++
        "#".toList ++ sm (sext (bits s.word 5 0))) ∧
      t.out.FieldsFrom s.word ∧ t.SameInputs s := by
  subst hdec hhead
  obtain ⟨t, hexec, hop, hf, hfv, hid, hrsv, hline, hfields, hsame⟩ := exec_outputs (wellFormed_decode s.word) s
  rw [hfmt] at hf hfv
  rw [print_decode_of_baseoff6 hfmt] at hline
  have ⟨hR, hBase, _, _, _, _, _, _, _, hoff, _⟩ := hfields
  exact ⟨t, hexec, hop, hf, hfv, hid, hrsv, hR, hBase, hoff, hline, hfields, hsame⟩

end Sys2Proof.Machine

namespace Sys2Proof.Certificates

open Sys2Proof.Machine

/-- Settles O50: the row's mask fixes opcode 6, so the word decodes to LDR; the outputs are those of its format. -/
theorem ldrOutputs : Obligations.LdrOutputs := by
  intro s hrow
  obtain ⟨-, -, -, -, -, -, -, -, -, hldr, -⟩ := decodeByOpcode s.word
  have hdec := hldr (opcode_of_mask hrow (by decide))
  exact ⟨hdec, sext_off6_range _, exec_baseoff6_outputs hdec rfl rfl⟩

/-- Settles O51: the row's mask fixes opcode 7, so the word decodes to STR; the outputs are those of its format. -/
theorem strOutputs : Obligations.StrOutputs := by
  intro s hrow
  obtain ⟨-, -, -, -, -, -, -, -, -, -, hstr, -⟩ := decodeByOpcode s.word
  have hdec := hstr (opcode_of_mask hrow (by decide))
  exact ⟨hdec, sext_off6_range _, exec_baseoff6_outputs hdec rfl rfl⟩

end Sys2Proof.Certificates
end

section
/-! Proof of the statement of 45_not: NOT (R73). NOT alone has its format, so no law of the format stands before it. -/

namespace Sys2Proof.Machine

/-- A word of opcode 9 is NOT, its registers the bits 11:9 and 8:6 (30_encoding R46). -/
theorem decode_eq_not {w : Word} (h : bits w 15 12 = 9#4) : decode w = .not (bits w 11 9) (bits w 8 6) := by
  obtain ⟨-, -, -, -, -, -, -, -, -, -, -, hnot, -⟩ := Certificates.decodeByOpcode w
  exact hnot h

/-- The line of NOT: its name to column 7, two registers (45_not R73). -/
theorem print_not (dr sr : Reg) : print (.not dr sr) = "NOT    ".toList ++ reg dr ++ " ".toList ++ reg sr := rfl

end Sys2Proof.Machine

namespace Sys2Proof.Certificates

open Sys2Proof.Machine

/-- Settles O52: the row's mask fixes opcode 9, so the word decodes to NOT, and NOT's outputs are those of a well-formed
instruction. -/
theorem notOutputs : Obligations.NotOutputs := by
  intro s hrow
  have hdec := decode_eq_not (opcode_of_mask hrow (by decide))
  obtain ⟨t, hexec, hop, hfmt, hfv, hid, hrsv, hline, hfields, hsame⟩ :=
    exec_outputs (i := .not (bits s.word 11 9) (bits s.word 8 6)) rfl s
  have ⟨hDR, hSR, _⟩ := hfields
  rw [print_not] at hline
  exact ⟨hdec, t, hexec, hop, hfmt, hfv, hid, hrsv, hDR, hSR, hline, hfields, hsame⟩

end Sys2Proof.Certificates
end

section
/-! Proofs of the statements of 46_jsr_jsrr: JSR (R74) and JSRR (R75). Bit 11, which the mask of both rows takes in,
picks the form (90_conflicts C3); each form alone has its format, so no law of a format stands before them. -/

namespace Sys2Proof.Machine

theorem sext_off11_range (v : BitVec 11) : -1024 ≤ sext v ∧ sext v ≤ 1023 :=
  (sext_bounds v (by decide)).imp_right Int.lt_add_one_iff.1

/-- A word of opcode 4 is JSR or JSRR, the form by bit 11 (30_encoding R45, R46). -/
theorem decode_eq_jsr_or_jsrr {w : Word} (h : bits w 15 12 = 4#4) :
    decode w = if bit w 11 then .jsrr (bits w 8 6) else .jsr (sext (bits w 10 0)) := by
  obtain ⟨-, -, -, -, -, -, -, -, -, -, -, -, hjsr, -⟩ := Certificates.decodeByOpcode w
  exact hjsr h

/-- The line of JSR: its name to column 7, the offset (46_jsr_jsrr R74). -/
theorem print_jsr (off : Int) :
    print (.jsr off) = "JSR    ".toList ++ "[OFFSET ".toList ++ sm off ++ "]".toList := rfl

/-- The line of JSRR: its name to column 7, the base register (46_jsr_jsrr R75). -/
theorem print_jsrr (base : Reg) : print (.jsrr base) = "JSRR   ".toList ++ reg base := rfl

end Sys2Proof.Machine

namespace Sys2Proof.Certificates

open Sys2Proof.Machine

/-- Settles O53: the row's mask fixes opcode 4 and a clear bit 11, so the word decodes to JSR, and JSR's outputs are
those of a well-formed instruction. -/
theorem jsrOutputs : Obligations.JsrOutputs := by
  intro s hrow
  have h11 : bit s.word 11 = false := getLsbD_of_mask hrow (by decide)
  have hdec := decode_eq_jsr_or_jsrr (opcode_of_mask hrow (by decide))
  rw [h11] at hdec
  obtain ⟨t, hexec, hop, hfmt, hfv, hid, hrsv, hline, hfields, hsame⟩ :=
    exec_outputs (i := .jsr (sext (bits s.word 10 0))) (fitsSigned_sext _ _) s
  have ⟨_, _, _, _, _, _, _, hB11, _, _, _, hoff, _⟩ := hfields
  rw [print_jsr] at hline
  exact ⟨hdec, sext_off11_range _, t, hexec, hop, hfmt, hfv, hid, hrsv, hB11.trans h11, hoff, hline, hfields, hsame⟩

/-- Settles O54: the row's mask fixes opcode 4 and a set bit 11, so the word decodes to JSRR, and JSRR's outputs are
those of a well-formed instruction. -/
theorem jsrrOutputs : Obligations.JsrrOutputs := by
  intro s hrow
  have h11 : bit s.word 11 = true := getLsbD_of_mask hrow (by decide)
  have hdec := decode_eq_jsr_or_jsrr (opcode_of_mask hrow (by decide))
  rw [h11] at hdec
  obtain ⟨t, hexec, hop, hfmt, hfv, hid, hrsv, hline, hfields, hsame⟩ :=
    exec_outputs (i := .jsrr (bits s.word 8 6)) rfl s
  have ⟨_, hBase, _, _, _, _, _, hB11, _⟩ := hfields
  rw [print_jsrr] at hline
  exact ⟨hdec, t, hexec, hop, hfmt, hfv, hid, hrsv, hB11.trans h11, hBase, hline, hfields, hsame⟩

end Sys2Proof.Certificates
end

section
/-! Proof of the statement of 47_trap: TRAP (R76). TRAP alone has its format, so no law of the format stands before it. -/

namespace Sys2Proof.Machine

/-- A word of opcode 15 is TRAP, its vector the bits 7:0 (30_encoding R46). -/
theorem decode_eq_trap {w : Word} (h : bits w 15 12 = 15#4) : decode w = .trap (bits w 7 0) := by
  obtain ⟨-, -, -, -, -, -, -, -, -, -, -, -, -, htrap, -⟩ := Certificates.decodeByOpcode w
  exact htrap h

/-- The line of TRAP: its name to column 7, an `x`, the vector in minimal uppercase digits (47_trap R76). -/
theorem print_trap (v : BitVec 8) : print (.trap v) = "TRAP   x".toList ++ hexU v.toNat := rfl

end Sys2Proof.Machine

namespace Sys2Proof.Certificates

open Sys2Proof.Machine

/-- Settles O55: the row's mask fixes opcode 15, so the word decodes to TRAP, and TRAP's outputs are those of a
well-formed instruction. -/
theorem trapOutputs : Obligations.TrapOutputs := by
  intro s hrow
  have hdec := decode_eq_trap (opcode_of_mask hrow (by decide))
  obtain ⟨t, hexec, hop, hfmt, hfv, hid, hrsv, hline, hfields, hsame⟩ :=
    exec_outputs (i := .trap (bits s.word 7 0)) rfl s
  have ⟨_, _, _, _, _, _, _, _, _, _, _, _, hvect, _⟩ := hfields
  rw [print_trap] at hline
  exact ⟨hdec, t, hexec, hop, hfmt, hfv, hid, hrsv, hvect, hline, hfields, hsame⟩

end Sys2Proof.Certificates
end

section
/-! Proofs of the statements of 48_fixed_text: RET (R77), RTI (R78) and the reserved opcode (R79). Their words are
fixed by the opcode alone, and their lines are the mnemonics alone. -/

namespace Sys2Proof.Machine

/-- Every word of opcode 8 is RTI (30_encoding R46). -/
theorem decode_eq_rti {w : Word} (h : bits w 15 12 = 8#4) : decode w = .rti := by
  obtain ⟨-, -, -, -, -, -, -, -, -, -, -, -, -, -, -, hrti, -⟩ := Certificates.decodeByOpcode w
  exact hrti h

/-- Every word of opcode 12 is RET (30_encoding R46; 90_conflicts C5). -/
theorem decode_eq_ret {w : Word} (h : bits w 15 12 = 12#4) : decode w = .ret := by
  obtain ⟨-, -, -, -, -, -, -, -, -, -, -, -, -, -, hret, -⟩ := Certificates.decodeByOpcode w
  exact hret h

theorem decode_eq_reserved {w : Word} (h : bits w 15 12 = 13#4) : decode w = .reserved :=
  eq_reserved_of_opcodeIn ((opcodeIn_decode w).trans h)

end Sys2Proof.Machine

namespace Sys2Proof.Certificates

open Sys2Proof.Machine

/-- Settles O56: the row's mask fixes opcode 12, so the word decodes to RET, and RET's outputs are those of a
well-formed instruction. -/
theorem retOutputs : Obligations.RetOutputs := fun s hrow =>
  ⟨decode_eq_ret (opcode_of_mask hrow (by decide)), exec_outputs (i := .ret) rfl s⟩

/-- Settles O57: the row's mask fixes opcode 8, so the word decodes to RTI, and RTI's outputs are those of a
well-formed instruction. -/
theorem rtiOutputs : Obligations.RtiOutputs := fun s hrow =>
  ⟨decode_eq_rti (opcode_of_mask hrow (by decide)), exec_outputs (i := .rti) rfl s⟩

/-- Settles O58: the row's mask fixes opcode 13, so the word decodes to the reserved term, and its outputs are those of
a well-formed instruction. -/
theorem reservedOutputs : Obligations.ReservedOutputs := fun s hrow =>
  ⟨decode_eq_reserved (opcode_of_mask hrow (by decide)), exec_outputs (i := .reserved) rfl s⟩

end Sys2Proof.Certificates
end

section
/-! Proofs of the statements of 30_encoding about words and terms: decode and encode undo each other (R39, R43, R46),
each word is in one row of the opcode table, and the bits a format does not read leave the term alone (R43). A word that
a row takes in decodes to that row's term with the operands its fields hold; the encoder's word is taken in by its row,
and its fields hold the operands. -/

namespace Sys2Proof.Machine

/-! Slices. -/

theorem bits_eq_extractLsb' (w : Word) (hi lo : Nat) (h : lo ≤ hi ∧ hi ≤ 15) :
    bits w hi lo h = w.extractLsb' lo (hi - lo + 1) := rfl

/-- A bit as a field of its own is the one-bit slice (30_encoding R35). -/
theorem ofBool_bit (w : Word) (n : Nat) (h : n ≤ 15) : BitVec.ofBool (bit w n h) = w.extractLsb' n 1 := by
  refine BitVec.eq_of_getLsbD_eq fun k hk => ?_
  obtain rfl : k = 0 := by omega
  simp [bit]

theorem one_eq_slice {w : Word} {n : Nat} {h : n ≤ 15} (hb : bit w n h = true) : 1#1 = w.extractLsb' n 1 := by
  rw [← ofBool_bit w n h, hb]
  rfl

theorem zero_eq_slice {w : Word} {n : Nat} {h : n ≤ 15} (hb : ¬ bit w n h = true) : 0#1 = w.extractLsb' n 1 := by
  rw [← ofBool_bit w n h, Bool.eq_false_of_not_eq_true hb]
  rfl

/-! Rows of the opcode table. -/

theorem tableRow_mask_opcode (i : Instr) : bits (tableRow i).2 15 12 = 15#4 := by
  cases i <;> (dsimp only [tableRow]; decide)

/-- The row's match holds the term's opcode (30_encoding R33). -/
theorem tableRow_match_opcode (i : Instr) : bits (tableRow i).1 15 12 = opcodeIn i := by
  cases i <;> (dsimp only [tableRow, opcodeIn]; decide)

/-- The word of an instruction is one that its row takes in, whatever its unread bits hold. -/
theorem encodeWith_mem_row (fill : Word) (i : Instr) :
    encodeWith fill i &&& (tableRow i).2 = (tableRow i).1 := by
  cases i
  case br => exact Laws.TableRow.br _ _ _ _ fill
  case addR => exact Laws.TableRow.addR _ _ _ fill
  case addI => exact Laws.TableRow.addI _ _ _ fill
  case ld => exact Laws.TableRow.ld _ _ fill
  case st => exact Laws.TableRow.st _ _ fill
  case jsr => exact Laws.TableRow.jsr _ fill
  case jsrr => exact Laws.TableRow.jsrr _ fill
  case andR => exact Laws.TableRow.andR _ _ _ fill
  case andI => exact Laws.TableRow.andI _ _ _ fill
  case ldr => exact Laws.TableRow.ldr _ _ _ fill
  case str => exact Laws.TableRow.str _ _ _ fill
  case rti => exact Laws.TableRow.rti fill
  case not => exact Laws.TableRow.not _ _ fill
  case ldi => exact Laws.TableRow.ldi _ _ fill
  case sti => exact Laws.TableRow.sti _ _ fill
  case ret => exact Laws.TableRow.ret fill
  case reserved => exact Laws.TableRow.reserved fill
  case lea => exact Laws.TableRow.lea _ _ fill
  case trap => exact Laws.TableRow.trap _ fill

/-- The term of the same row whose operands are the fields of `w` (30_encoding R39). -/
def withOperandsOf (w : Word) : Instr → Instr
  | .br _ _ _ _ => .br (bit w 11) (bit w 10) (bit w 9) (sext (bits w 8 0))
  | .addR _ _ _ => .addR (bits w 11 9) (bits w 8 6) (bits w 2 0)
  | .addI _ _ _ => .addI (bits w 11 9) (bits w 8 6) (sext (bits w 4 0))
  | .ld _ _ => .ld (bits w 11 9) (sext (bits w 8 0))
  | .st _ _ => .st (bits w 11 9) (sext (bits w 8 0))
  | .jsr _ => .jsr (sext (bits w 10 0))
  | .jsrr _ => .jsrr (bits w 8 6)
  | .andR _ _ _ => .andR (bits w 11 9) (bits w 8 6) (bits w 2 0)
  | .andI _ _ _ => .andI (bits w 11 9) (bits w 8 6) (sext (bits w 4 0))
  | .ldr _ _ _ => .ldr (bits w 11 9) (bits w 8 6) (sext (bits w 5 0))
  | .str _ _ _ => .str (bits w 11 9) (bits w 8 6) (sext (bits w 5 0))
  | .rti => .rti
  | .not _ _ => .not (bits w 11 9) (bits w 8 6)
  | .ldi _ _ => .ldi (bits w 11 9) (sext (bits w 8 0))
  | .sti _ _ => .sti (bits w 11 9) (sext (bits w 8 0))
  | .ret => .ret
  | .reserved => .reserved
  | .lea _ _ => .lea (bits w 11 9) (sext (bits w 8 0))
  | .trap _ => .trap (bits w 7 0)

theorem tableRow_withOperandsOf (w : Word) (i : Instr) : tableRow (withOperandsOf w i) = tableRow i := by
  cases i <;> rfl

/-- A word that a row takes in decodes to the term of that row, its operands the word's fields. -/
theorem decode_of_row {w : Word} {i : Instr} (h : w &&& (tableRow i).2 = (tableRow i).1) :
    decode w = withOperandsOf w i := by
  have hop : bits w 15 12 = opcodeIn i :=
    (opcode_of_mask h (tableRow_mask_opcode i)).trans (tableRow_match_opcode i)
  obtain ⟨-, hbr, hadd, hand, hld, hldi, hst, hsti, hlea, hldr, hstr, hnot, hjsr, htrap, hret, hrti, hrsv⟩ :=
    Certificates.decodeByOpcode w
  cases i <;> dsimp only [tableRow] at h
  case br => exact hbr hop
  case addR =>
    rw [hadd hop, show bit w 5 = false from getLsbD_of_mask h (by decide)]
    rfl
  case addI =>
    rw [hadd hop, show bit w 5 = true from getLsbD_of_mask h (by decide)]
    rfl
  case ld => exact hld hop
  case st => exact hst hop
  case jsr =>
    rw [hjsr hop, show bit w 11 = false from getLsbD_of_mask h (by decide)]
    rfl
  case jsrr =>
    rw [hjsr hop, show bit w 11 = true from getLsbD_of_mask h (by decide)]
    rfl
  case andR =>
    rw [hand hop, show bit w 5 = false from getLsbD_of_mask h (by decide)]
    rfl
  case andI =>
    rw [hand hop, show bit w 5 = true from getLsbD_of_mask h (by decide)]
    rfl
  case ldr => exact hldr hop
  case str => exact hstr hop
  case rti => exact hrti hop
  case not => exact hnot hop
  case ldi => exact hldi hop
  case sti => exact hsti hop
  case ret => exact hret hop
  case reserved => exact hrsv hop
  case lea => exact hlea hop
  case trap => exact htrap hop

/-! Decode and encode. -/

/-- The fields of an instruction's word hold its operands: a slice of a word put together of fields is a field. -/
theorem withOperandsOf_encodeWith (fill : Word) {i : Instr} (h : i.wellFormed = true) :
    withOperandsOf (encodeWith fill i) i = i := by
  cases i
  case rti | ret | reserved => rfl
  case br =>
    simp (disch := decide) only [withOperandsOf, encodeWith, bit, BitVec.getLsbD_append, bits_eq_extractLsb',
      BitVec.extractLsb'_append_eq_of_add_le]
    simpa using sext_ofInt (by decide) h
  all_goals
    simp (disch := decide) only [withOperandsOf, encodeWith, bits_eq_extractLsb',
      BitVec.extractLsb'_append_eq_of_add_le, BitVec.extractLsb'_append_eq_of_le]
  -- registers and the vector
  case addR | andR | jsrr | not | trap => simp
  all_goals simpa using sext_ofInt (by decide) h

theorem decode_encodeWith (fill : Word) {i : Instr} (h : i.wellFormed = true) : decode (encodeWith fill i) = i :=
  (decode_of_row (encodeWith_mem_row fill i)).trans (withOperandsOf_encodeWith fill h)

/-- Opcode, flags, selector, fields and unread bits of a word are its slices, and adjacent slices put together are the
slice over both. -/
theorem encodeWith_decode (w : Word) : encodeWith w (decode w) = w := by
  have hop : opcodeIn (decode w) = bits w 15 12 := opcodeIn_decode w
  revert hop
  fun_cases decode w <;> intro hop <;> dsimp only [opcodeIn] at hop <;> simp only [encodeWith, ofInt_sext, hop]
  -- the flags, and the selector bits
  case' case1 => simp only [flagN, flagZ, flagP, ofBool_bit]
  case' case2 hsel | case6 hsel | case8 hsel => rw [one_eq_slice hsel]
  case' case3 hsel | case7 hsel | case9 hsel => rw [zero_eq_slice hsel]
  all_goals
    simp (disch := decide) only [fieldRHi, fieldRMid, fieldRLo, fieldOff9, fieldImm5, fieldOff11, fieldOff6, fieldVect8,
      bits_eq_extractLsb', BitVec.extractLsb'_append_extractLsb'_eq_extractLsb']
    exact BitVec.extractLsb'_eq_self

/-- One term of each row of the opcode table, in the table's order. -/
def rowTerms : List Instr :=
  [.br false false false 0, .addR 0 0 0, .addI 0 0 0, .ld 0 0, .st 0 0, .jsr 0, .jsrr 0, .andR 0 0 0, .andI 0 0 0,
   .ldr 0 0 0, .str 0 0 0, .rti, .not 0 0, .ldi 0 0, .sti 0 0, .ret, .reserved, .lea 0 0, .trap 0]

theorem nodup_rows : (rowTerms.map tableRow).Nodup := by decide

theorem tableRow_mem_rows (i : Instr) : tableRow i ∈ rowTerms.map tableRow := by
  cases i <;> simp [rowTerms, tableRow]

/-- A word is in the row of the term it decodes to and in no other. -/
theorem mem_row_iff (w : Word) (i : Instr) :
    w &&& (tableRow i).2 = (tableRow i).1 ↔ tableRow i = tableRow (decode w) := by
  constructor
  · intro h
    rw [decode_of_row h, tableRow_withOperandsOf]
  · intro h
    have hrow := encodeWith_mem_row w (decode w)
    rwa [encodeWith_decode, ← h] at hrow

/-! The bits a format does not read. -/

/-- The encoder takes the unread bits, and no other, from its first argument (30_encoding R43). -/
theorem getLsbD_encodeWith (fill : Word) (i : Instr) {k : Nat} (hk : k < 16) :
    (encodeWith fill i).getLsbD k =
      if (unreadMask (formatIn i)).getLsbD k then fill.getLsbD k else (encode i).getLsbD k := by
  cases i
  case addR | andR | jsrr | not | rti | ret | reserved | trap =>
    simp only [encode, encodeWith, formatIn, unreadMask, BitVec.getLsbD_append, getLsbD_bits]
    interval_cases k <;> simp
  all_goals simp [encode, encodeWith, formatIn, unreadMask]

/-- Words that differ only in bits the format of one does not read decode to the same term: the other is that term's
word with other unread bits. -/
theorem decode_eq_of_unread {w v : Word} (h : (w ^^^ v) &&& ~~~ unreadMask (formatOf w) = 0#16) :
    decode v = decode w := by
  have hv : encodeWith v (decode w) = v := by
    refine BitVec.eq_of_getLsbD_eq fun k hk => ?_
    have hw := getLsbD_encodeWith w (decode w) hk
    rw [encodeWith_decode, formatIn_decode] at hw
    rw [getLsbD_encodeWith v _ hk, formatIn_decode]
    split
    · rfl
    next hread =>
      rw [if_neg hread] at hw
      have hbit := congrArg (BitVec.getLsbD · k) h
      simp only [BitVec.getLsbD_and, BitVec.getLsbD_xor, BitVec.getLsbD_not, BitVec.getLsbD_zero, hk, hread] at hbit
      exact hw.symm.trans (by simpa using hbit)
  rw [← hv, decode_encodeWith v (wellFormed_decode w)]

end Sys2Proof.Machine

namespace Sys2Proof.Certificates

open Sys2Proof.Machine

/-- Settles O2, by evaluation of the fourteen words. -/
theorem specWordsDecode : Obligations.SpecWordsDecode := by
  unfold Obligations.SpecWordsDecode
  decide

/-- Settles O3: the word is in its row, so it decodes to the row's term with the fields it holds, which are the
operands. -/
theorem decodeUndoesEncode : Obligations.DecodeUndoesEncode := fun fill _ h => decode_encodeWith fill h

/-- Settles O4: the fields and the unread bits of a word make up the word. -/
theorem encodeUndoesDecode : Obligations.EncodeUndoesDecode := encodeWith_decode

/-- Settles O6: a row takes the word in exactly when it is the row of the decoded term, and the table has no row
twice. -/
theorem everyWordMatchesOneRow : Obligations.EveryWordMatchesOneRow := by
  intro w
  have hfilter : (rowTerms.map tableRow).filter (fun row => w &&& row.2 == row.1) =
      (rowTerms.map tableRow).filter (· == tableRow (decode w)) := by
    refine List.filter_congr fun row hrow => ?_
    obtain ⟨i, -, rfl⟩ := List.mem_map.1 hrow
    rw [Bool.eq_iff_iff, beq_iff_eq, beq_iff_eq]
    exact mem_row_iff w i
  have hcount := List.count_eq_one_of_mem nodup_rows (tableRow_mem_rows (decode w))
  rw [List.filter_beq, hcount] at hfilter
  exact hfilter

/-- Settles O7: the words decode to the same term, and the term alone decides these outputs. -/
theorem unreadBitsDoNotMatter : Obligations.UnreadBitsDoNotMatter := by
  intro s w v h
  refine ⟨_, _, step_eq_deliver _, step_eq_deliver _, ?_⟩
  have hdec : decode (s.withNextWord v).present.word = decode (s.withNextWord w).present.word :=
    decode_eq_of_unread h
  rw [hdec]
  and_intros <;> rfl

end Sys2Proof.Certificates
end

section
/-! Proofs of the statements about the machine as a whole: a step runs the decoded instruction, the settled form and the
legal outputs are kept (10_state R22, R23), instructions complete and leave their inputs alone (R14), and the driver's
words are decoded one after the other (20_memory R27, 70 R94). A step presents the next word and settles. -/

namespace Sys2Proof.Machine

/-! One step, and a run. -/

/-- What a step can do: present the driver's next word, if there is one, and settle. -/
theorem step_inv {s t : State} (h : step s = .next t) :
    t.word = s.pending.head?.getD s.word ∧ t.pending = s.pending.tail ∧ t.Settled := by
  have hsettled := settled_of_step h
  rw [step_eq_deliver] at h
  cases h
  exact ⟨State.present_word s, State.present_pending s, hsettled⟩

/-- Two settled states with the same inputs are the same state. -/
theorem eq_of_settled {s t : State} (hs : s.Settled) (ht : t.Settled) (hin : t.SameInputs s) : t = s := by
  obtain ⟨w, p, out⟩ := s
  obtain ⟨w', p', out'⟩ := t
  obtain ⟨rfl, rfl⟩ := hin
  exact congrArg _ (ht.trans hs.symm)

/-- What an instruction answers differs from the state before it in output ports only (10_state R14). -/
theorem exec_frame {i : Instr} {s t : State} (h : exec i s = .next t) :
    t.SameInputs s ∧ t = { s with out := t.out } := by
  rw [exec_eq_deliver] at h
  cases h
  exact ⟨⟨rfl, rfl⟩, rfl⟩

/-- The instruction of the word on the port settles the outputs. -/
theorem settled_of_exec_decode {s t : State} (h : exec (decode s.word) s = .next t) : t.Settled := by
  rw [exec_eq_deliver] at h
  cases h
  exact deliver_decode_settled s

theorem run_succ {s t : State} (h : step s = .next t) (k : Nat) :
    Host.Core.run Sys2Proof.core (k + 1) s = Host.Core.run Sys2Proof.core k t := by
  have hcore : Sys2Proof.core.step s = .next t := h
  simp only [Host.Core.run, hcore]

/-- A run presents the driver's words in order and settles on the last one it presents (70 R94). -/
theorem run_delivers {k : Nat} {s : State} {w : Word} (h : s.pending[k]? = some w) :
    ∃ t : State, Host.Core.run Sys2Proof.core (k + 1) s = .next t ∧ t.word = w ∧
      t.pending = s.pending.drop (k + 1) ∧ t.Settled := by
  induction k generalizing s with
  | zero =>
    obtain ⟨t, hstep, hsettled⟩ := exists_step_settled s
    obtain ⟨hword, hpending, -⟩ := step_inv hstep
    refine ⟨t, run_succ hstep 0, ?_, hpending.trans List.drop_one.symm, hsettled⟩
    rw [hword, List.head?_eq_getElem?, h, Option.getD_some]
  | succ k ih =>
    obtain ⟨t, hstep, -⟩ := exists_step_settled s
    obtain ⟨-, hpending, -⟩ := step_inv hstep
    have hk : t.pending[k]? = some w := by rw [hpending, List.getElem?_tail, h]
    obtain ⟨u, hrun, hword, hdrop, hsettled⟩ := ih hk
    refine ⟨u, (run_succ hstep _).trans hrun, hword, ?_, hsettled⟩
    rw [hdrop, hpending, List.drop_tail]

/-! Legal outputs. -/

theorem fmtCode_le (f : Format) : (fmtCode f).toNat ≤ 10 := by
  cases f <;> decide

theorem toNat_mnemId (id : Fin 17) : (BitVec.ofNat 5 id.val).toNat = id.val :=
  Nat.mod_eq_of_lt (Nat.lt_trans id.isLt (by decide))

/-- A line that fits its port has its length on the length port (40_datapath R58). -/
theorem toNat_asmLen {line : Text} (h : line.length ≤ 23) : (BitVec.ofNat 5 line.length).toNat = line.length :=
  Nat.mod_eq_of_lt (Nat.lt_of_le_of_lt h (by decide))

theorem three_le_print_length (i : Instr) : 3 ≤ (print i).length := by
  by_cases h : HasOperands i
  · rw [print_eq_head_operands, List.length_append, headText_length h]
    omega
  · cases i
    case rti | ret | reserved => decide
    all_goals exact absurd ⟨nofun, nofun⟩ h

theorem toNat_code_of_isLineChar {c : Char} (h : isLineChar c = true) :
    0x20 ≤ (BitVec.ofNat 8 c.toNat).toNat ∧ (BitVec.ofNat 8 c.toNat).toNat ≤ 0x7E := by
  have hmod : c.toNat % 2 ^ 8 = c.toNat := Nat.mod_eq_of_lt (toNat_lt_of_isLineChar h)
  simp only [isLineChar, Bool.and_eq_true, decide_eq_true_eq] at h
  rw [BitVec.toNat_ofNat, hmod]
  exact h.1

/-- A port with a text of printable characters holds them, and 0x00 behind them (40_datapath R58). -/
theorem packText_printable {n : Nat} {t : Text} (ht : ∀ c ∈ t, isLineChar c = true) (k : Fin n) :
    if k.val < t.length then 0x20 ≤ (packText n t)[k].toNat ∧ (packText n t)[k].toNat ≤ 0x7E
    else (packText n t)[k] = 0#8 := by
  have hport : (packText n t)[k] = (ascii t).getD k 0#8 := packText_getElem n t k.val k.isLt
  rw [hport]
  split
  next hk =>
    have hchar : (ascii t).getD k 0#8 = BitVec.ofNat 8 t[k.val].toNat := by simp [ascii, hk]
    rw [hchar]
    exact toNat_code_of_isLineChar (ht _ (List.getElem_mem hk))
  next hk => exact List.getD_eq_default _ _ (by simpa using hk)

/-- The rules' outputs are legal for every word. -/
theorem legal_portsOf (w : Word) : (portsOf w).Legal := by
  have hlen : (portsOf w).asmLen.toNat = (assemblyString w).length := toNat_asmLen (assemblyString_length_le w)
  have hid : (portsOf w).mnemId.toNat = (mnemIdOf w).val := toNat_mnemId _
  unfold Ports.Legal
  rw [hlen, hid]
  refine ⟨fmtCode_le _, Nat.le_of_lt_succ (mnemIdOf w).isLt, ?_, assemblyString_length_le w, decide_eq_true_iff, ?_⟩
  · rw [← print_decode]
    exact three_le_print_length _
  · exact packText_printable fun c hc => isLineChar_of_mem_print (print_decode w ▸ hc)

/-! Field ports as numbers. -/

theorem toNat_bit (w : Word) (n : Nat) (h : n ≤ 15 := by decide) : (bit w n h).toNat = w.toNat / 2 ^ n % 2 := by
  rw [bit, BitVec.getLsbD, Nat.testBit_eq_decide_div_mod_eq]
  rcases Nat.mod_two_eq_zero_or_one (w.toNat / 2 ^ n) with h | h <;> simp [h]

/-- A slice that ends at bit 0 is a remainder (00_scope R8). -/
theorem toNat_bits_zero (w : Word) (hi : Nat) (h : 0 ≤ hi ∧ hi ≤ 15 := by decide) :
    (bits w hi 0 h).toNat = w.toNat % 2 ^ (hi + 1) := by
  rw [toNat_bits, Nat.pow_zero, Nat.div_one, Nat.sub_zero]

/-- The extender leaves the field's bits as they are (30_encoding R36). -/
theorem toNat_sext16_mod {n : Nat} (v : BitVec n) (h : 1 ≤ n ∧ n ≤ 16) : (sext16 v h).toNat % 2 ^ n = v.toNat := by
  refine Nat.eq_of_testBit_eq fun k => ?_
  rw [Nat.testBit_mod_two_pow, BitVec.testBit_toNat, BitVec.testBit_toNat]
  by_cases hk : k < n
  · rw [getLsbD_sext16 v h (by omega), if_pos hk, decide_eq_true hk, Bool.true_and]
  · rw [BitVec.getLsbD_of_ge v k (by omega), decide_eq_false hk, Bool.false_and]

theorem toNat_sext16_bits_mod (w : Word) (hi : Nat) (h : 0 ≤ hi ∧ hi ≤ 15 := by decide) :
    (sext16 (bits w hi 0 h) (by omega)).toNat % 2 ^ (hi + 1) = w.toNat % 2 ^ (hi + 1) :=
  (toNat_sext16_mod (bits w hi 0 h) _).trans (toNat_bits_zero w hi h)

/-- The binary port's characters by arithmetic on the word's number (40_datapath R56). -/
theorem packText_binaryString_getElem_eq_ite_mod (w : Word) (k : Fin 16) :
    (packText 16 (binaryString w))[k] = if w.toNat / 2 ^ (15 - k.val) % 2 = 1 then 0x31#8 else 0x30#8 := by
  rw [packText_binaryString_getElem, BitVec.getLsbD, Nat.testBit_eq_decide_div_mod_eq]
  simp only [decide_eq_true_eq]

end Sys2Proof.Machine

namespace Sys2Proof.Certificates

open Sys2Proof.Machine

/-- Settles O1: `step` is `exec` in the state after the driver has presented its word. -/
theorem stepRunsDecodedInstruction : Obligations.StepRunsDecodedInstruction := by
  constructor
  · intro s w rest h
    rw [step, State.present_cons s h]
  · intro s h
    rw [step, State.present_nil s h]

/-- Settles O9: before and after its own word's instruction the block is settled on the same inputs. -/
theorem settledIsInvariant : Obligations.SettledIsInvariant :=
  ⟨fun _ _ hs h => eq_of_settled hs (settled_of_exec_decode h) (exec_frame h).1, fun _ _ _ h => settled_of_step h⟩

/-- Settles O10: a step settles the outputs, and the rules' outputs are legal for every word. -/
theorem stepKeepsOutputsLegal : Obligations.StepKeepsOutputsLegal := by
  intro s t h
  obtain ⟨-, -, ht⟩ := step_inv h
  rw [ht]
  exact legal_portsOf t.word

/-- Settles O11: the reset outputs are the rules' for the word 0x0000, so they are legal; their values are evaluated. -/
theorem resetOutputs : Obligations.ResetOutputs := by
  refine ⟨rfl, legal_portsOf _, ?_⟩
  decide

/-- Settles O13: the outputs are those of a well-formed instruction, whose line fits its port. -/
theorem everyInstructionCompletes : Obligations.EveryInstructionCompletes := by
  intro i s h
  obtain ⟨t, hexec, hop, -, -, -, hrsv, hline, hfields, hsame⟩ := exec_outputs h s
  refine ⟨t, hexec, hline, ?_, hop.trans (tableRow_match_opcode i).symm, ?_, hfields, hsame⟩
  · rw [exec_eq_deliver] at hexec
    cases hexec
    exact toNat_asmLen (print_length_le h)
  · rw [hrsv]
    cases i <;> simp [reservedIn]

/-- Settles O14, by the frame of `exec`. -/
theorem instructionsKeepTheWord : Obligations.InstructionsKeepTheWord := fun _ _ _ h => exec_frame h

/-- Settles O16: the run ends settled on word number `k`. -/
theorem runDeliversEachWord : Obligations.RunDeliversEachWord := by
  intro k s w h
  obtain ⟨t, hrun, hword, hpending, hsettled⟩ := run_delivers h
  exact ⟨t, hrun, hword, hpending, hword ▸ hsettled⟩

/-- Settles O17: both steps present the same word and settle on it. -/
theorem decodingTwiceIsIdempotent : Obligations.DecodingTwiceIsIdempotent := by
  intro s t u w hs ht hu
  obtain ⟨hword, hpending, htsettled⟩ := step_inv ht
  obtain ⟨hword', -, husettled⟩ := step_inv hu
  rw [hs] at hword hpending
  rw [hpending] at hword'
  have hsame : u.word = t.word := hword'.trans hword.symm
  exact ⟨by rw [husettled, htsettled, hsame], hsame⟩

/-- Settles O18: the field ports are slices of the word on the port, and a slice is a quotient and remainder. -/
theorem fieldPortsDrivenForEveryInstruction : Obligations.FieldPortsDrivenForEveryInstruction := by
  intro i s
  exact ⟨_, exec_eq_deliver i s, toNat_bits s.word 11 9 (by decide), toNat_bits s.word 8 6 (by decide),
    toNat_bits_zero s.word 2, toNat_bit s.word 11, toNat_bit s.word 10, toNat_bit s.word 9, toNat_bit s.word 5,
    toNat_bit s.word 11, toNat_sext16_bits_mod s.word 4, toNat_sext16_bits_mod s.word 5,
    toNat_sext16_bits_mod s.word 8, toNat_sext16_bits_mod s.word 10, toNat_bits_zero s.word 7,
    packText_binaryString_getElem_eq_ite_mod s.word, rfl, packText_hexString_getElem? s.word⟩

end Sys2Proof.Certificates
end

section
/-! Proofs of the statements of 30_encoding about the sign-extender (R36, R38) and the format router (R39, R40). -/

namespace Sys2Proof.Machine

/-- Taking `2 ^ n` away from a field, or not, leaves its remainder (30_encoding R36). -/
theorem sext_emod {n : Nat} (v : BitVec n) (h : 1 ≤ n ∧ n ≤ 16) : sext v h % 2 ^ n = v.toNat := by
  have hlt : (v.toNat : Int) < 2 ^ n := by exact_mod_cast v.isLt
  have hmod : (v.toNat : Int) % 2 ^ n = v.toNat := Int.emod_eq_of_lt (Int.natCast_nonneg _) hlt
  rw [sext]
  split
  · rw [Int.sub_emod_right, hmod]
  · exact hmod

/-- The last bit of a field is its sign. -/
theorem sext_neg_iff {n : Nat} (v : BitVec n) (h : 1 ≤ n ∧ n ≤ 16) : sext v h < 0 ↔ v.getLsbD (n - 1) = true := by
  have hlt : (v.toNat : Int) < 2 ^ n := by exact_mod_cast v.isLt
  rw [sext]
  split
  next hsign => exact iff_of_true (by omega) hsign
  next hsign => exact iff_of_false (by omega) hsign

theorem toInt_sext16_eq_sext {n : Nat} (v : BitVec n) (h : 1 ≤ n ∧ n ≤ 16) : (sext16 v h).toInt = sext v h :=
  (toInt_sext16 v h).trans (sext_eq_toInt v h).symm

/-- A format's mask has the bits of the fields it uses and no other (30_encoding R40). -/
theorem getLsbD_fvalidMask (f : Format) (x : Field) :
    (fvalidMask f).getLsbD (maskBit x) = true ↔ x ∈ fieldsUsed f := by
  cases f <;> cases x <;> decide

end Sys2Proof.Machine

namespace Sys2Proof.Certificates

open Sys2Proof.Machine

/-- Settles O22: the sign clauses are the sign bit's, once as it is and once negated. -/
theorem signExtensionRoundTrip : Obligations.SignExtensionRoundTrip := by
  intro n h v
  have hneg := sext_neg_iff v h
  refine ⟨sext_emod v h, ?_, hneg⟩
  rw [← Int.not_lt, hneg, Bool.not_eq_true]

/-- Settles O23: each port is the extended field as 16 bits, so its integer is the field's. -/
theorem signedPortRanges : Obligations.SignedPortRanges := by
  intro i s t h
  rw [exec_eq_deliver] at h
  cases h
  simp only [State.deliver_sxImm5, State.deliver_sxOff6, State.deliver_sxOff9, State.deliver_sxOff11,
    toInt_sext16_eq_sext]
  exact ⟨sext_imm5_range _, sext_off6_range _, sext_off9_range _, sext_off11_range _⟩

/-- Settles O35: the settled ports are the code and the mask of the word's format, which opcode and selector bit
decide. -/
theorem routerTable : Obligations.RouterTable := by
  intro s
  obtain ⟨t, hs, ht⟩ := exists_step_settled s
  refine ⟨t, hs, ?_⟩
  have hop : bits t.word 15 12 = opcodeIn (decode t.word) := (opcodeIn_decode t.word).symm
  have hfmt : (t.out.fmt, t.out.fvalid) =
      (fmtCode (formatIn (decode t.word)), fvalidMask (formatIn (decode t.word))) := by
    rw [ht, formatIn_decode]
    rfl
  rw [hfmt, hop]
  fun_cases decode t.word
  -- ADD, AND, JSR and JSRR: the selector bit picks the format
  case case2 hsel | case8 hsel => simp only [show bit t.word 5 = true from hsel]; rfl
  case case3 hsel | case9 hsel => simp only [show bit t.word 5 = false from Bool.eq_false_of_not_eq_true hsel]; rfl
  case case6 hsel => simp only [show bit t.word 11 = true from hsel]; rfl
  case case7 hsel => simp only [show bit t.word 11 = false from Bool.eq_false_of_not_eq_true hsel]; rfl
  all_goals rfl

/-- Settles O36: a bit of the mask stands for a field, and the column of fields used says which formats use it. -/
theorem maskBitsAreTheFieldsUsed : Obligations.MaskBitsAreTheFieldsUsed := by
  refine ⟨fun s => ?_, by decide, by decide, getLsbD_fvalidMask⟩
  obtain ⟨t, hs, ht⟩ := exists_step_settled s
  refine ⟨t, hs, ?_⟩
  have hfv : t.out.fvalid = fvalidMask (formatOf t.word) := by rw [ht]; rfl
  rw [hfv]
  generalize formatOf t.word = f
  cases f <;> decide

end Sys2Proof.Certificates
end

section
/-! Proofs of the statements of 40_datapath about numerals (00_scope R10), the two renderings of the line (R60), its
lengths (R61) and its mnemonic (R47, R49). A line with operands is a head of 7 characters and the operands. -/

namespace Sys2Proof.Machine

/-! Lengths. -/

theorem print_length {i : Instr} (h : HasOperands i) : (print i).length = 7 + (operandText i).length := by
  rw [print_eq_head_operands, List.length_append, headText_length h]

/-- The magnitude of an extended field of `n` bits has at most as many digits as `2 ^ (n - 1)` (30_encoding R38). -/
theorem dec_sext_length_mem {n : Nat} (v : BitVec n) (h : 1 ≤ n ∧ n ≤ 16) (d : Nat) (hd : 2 ^ (n - 1) < 10 ^ (d + 1)) :
    (dec (sext v h).natAbs).length ∈ List.range' 1 (d + 1) := by
  have hpos := dec_length_pos (sext v h).natAbs
  have hle := dec_length_le d (Nat.lt_of_le_of_lt (natAbs_le_of_fits (fitsSigned_sext v h)) hd)
  exact List.mem_range'_1.2 ⟨hpos, by omega⟩

theorem hexU_vect8_length_mem (v : BitVec 8) : (hexU v.toNat).length ∈ List.range' 1 2 := by
  have hpos := hexU_length_pos v.toNat
  have hle := hexU_length_le 1 (k := v.toNat) v.isLt
  exact List.mem_range'_1.2 ⟨hpos, by omega⟩

/-- Every line begins with its mnemonic (40_datapath R49). -/
theorem romText_prefix_print (i : Instr) : romText (mnemIn i) <+: print i := by
  refine List.IsPrefix.trans ?_ ⟨operandText i, (print_eq_head_operands i).symm⟩
  cases i
  case br => exact (List.prefix_append _ _).trans (List.prefix_append _ _)
  case rti | ret | reserved => exact List.prefix_refl _
  all_goals exact List.prefix_append _ _

end Sys2Proof.Machine

namespace Sys2Proof.Certificates

open Sys2Proof.Machine

/-- Settles O24: `dec` and `hexU` are numerals of the bases 10 and 16. -/
theorem numeralsReadBack : Obligations.NumeralsReadBack := by
  intro k
  refine ⟨?_, ?_, fun c hc => ?_, fun c hc => ?_, fun hk => ⟨?_, ?_⟩, rfl, rfl⟩
  · exact readNumeral_numeral (by decide) (by decide) (Nat.lt_succ_self k)
  · exact readNumeral_numeral (by decide) (by decide) (Nat.lt_succ_self k)
  · exact digitValue_lt_of_mem_numeral (by decide) (by decide) hc
  · exact digitValue_lt_of_mem_numeral (by decide) (by decide) hc
  · exact head?_numeral_ne_zero (by decide) (by decide) hk (Nat.lt_succ_self k)
  · exact head?_numeral_ne_zero (by decide) (by decide) hk (Nat.lt_succ_self k)

/-- Settles O30: router and mnemonic mapper agree with the decoded term, so the two renderings pick the same template
and give it the same fields. -/
theorem lineIsPrintOfTheDecodedTerm : Obligations.LineIsPrintOfTheDecodedTerm := fun w => (print_decode w).symm

/-- Settles O31: the head has 7 characters, the operands have their own lengths, and an extended field bounds its
digits. -/
theorem lineLengthsByFormat : Obligations.LineLengthsByFormat := by
  intro w
  have hlen := print_length (i := decode w)
  rw [← print_decode, ← formatIn_decode]
  revert hlen
  fun_cases decode w <;> intro hlen
  -- RTI, RET and the reserved term are their text alone
  case case12 | case16 | case17 => rfl
  all_goals
    dsimp only [formatIn]
    rw [hlen ⟨nofun, nofun⟩]
  -- registers only
  case case3 | case6 | case9 | case13 => simp [operandText]
  -- immediates and offsets of 5 and 6 bits, then offsets of 11 bits, then the vector
  case case2 | case8 | case10 | case11 =>
    exact ⟨by simp +arith [operandText, fieldImm5, fieldOff6], dec_sext_length_mem _ _ 1 (by decide)⟩
  case case7 => exact ⟨by simp +arith [operandText, fieldOff11], dec_sext_length_mem _ _ 3 (by decide)⟩
  case case19 => exact ⟨by simp +arith [operandText, fieldVect8], hexU_vect8_length_mem _⟩
  -- offsets of 9 bits
  all_goals exact ⟨by simp +arith [operandText, fieldOff9], dec_sext_length_mem _ _ 2 (by decide)⟩

/-- Settles O39: the settled index port points to the entry of the decoded term, and the term's line begins with it. -/
theorem lineBeginsWithTheRomText : Obligations.LineBeginsWithTheRomText := by
  intro s t h
  obtain ⟨-, -, ht⟩ := step_inv h
  obtain ⟨rest, hline⟩ := romText_prefix_print (decode t.word)
  rw [mnemIn_decode, print_decode] at hline
  refine ⟨mnemIdOf t.word, rest, ?_, ?_⟩
  · rw [ht]
    exact toNat_mnemId _
  · rw [ht, asmLine_portsOf, hline]

end Sys2Proof.Certificates
end
